-- ==== Sys2Proof/Config.lean ====
section
/-!
DEFINITION. What the spec fixes as constants (spec/00_scope.md R4) and the one parameter it leaves open
(`SUB_SUBTRACT_STEPS`, spec/92_eei_decisions.md D4).
-/

namespace Sys2Proof.Config

/-- RAM_WORDS: the number of memory cells (R4). -/
def ramWords : Nat := 16

/-- STEPS: the micro-steps of one instruction cycle (R4). -/
def steps : Nat := 8

/-- Which of the steps 3, 4 and 5 of SUB have Subtract in their signal set. Step 6 always has it (D4). -/
structure SubtractSteps where
  step3 : Bool
  step4 : Bool
  step5 : Bool
deriving DecidableEq, Repr, Inhabited

/-- `SUB_SUBTRACT_STEPS` without the 6 it always contains. The spec leaves it open and gives it as a parameter of the model
(D4), so it has no body: a claim holds for each of its eight values (log 5). -/
opaque subSubtractSteps : SubtractSteps

end Sys2Proof.Config
end

