-- ==== Sys2Proof/Machine/Signals.lean ====
section
/-!
DEFINITION. The fifteen control signals and sets of them (spec/40_control_unit.md R92, spec/00_scope.md section 6).
A set is one Bool for each signal, so that equal sets are equal data.
-/

namespace Sys2Proof.Machine

/-- The closed enumeration of the control signals (R92). -/
inductive Signal where
  | counterOut | ramOut | irOut | aOut | aluOut
  | subtract
  | loadMAR | irIn | aIn | bIn | outIn | ramIn | jump
  | counterEnable | halt
deriving DecidableEq, Repr

/-- A subset of the fifteen signals: the output of the decoder (R91) and the record SIGNALS (R23). -/
structure SignalSet where
  counterOut : Bool := false
  ramOut : Bool := false
  irOut : Bool := false
  aOut : Bool := false
  aluOut : Bool := false
  subtract : Bool := false
  loadMAR : Bool := false
  irIn : Bool := false
  aIn : Bool := false
  bIn : Bool := false
  outIn : Bool := false
  ramIn : Bool := false
  jump : Bool := false
  counterEnable : Bool := false
  halt : Bool := false
deriving DecidableEq, Repr

/-- The empty set, written with two braces in the spec (R5). -/
def noSignals : SignalSet := ⟨false, false, false, false, false, false, false, false, false, false, false, false, false, false, false⟩

/-- Membership of a signal in a set (R5, "s in g"). -/
def asserts (g : SignalSet) : Signal → Bool
  | .counterOut => g.counterOut
  | .ramOut => g.ramOut
  | .irOut => g.irOut
  | .aOut => g.aOut
  | .aluOut => g.aluOut
  | .subtract => g.subtract
  | .loadMAR => g.loadMAR
  | .irIn => g.irIn
  | .aIn => g.aIn
  | .bIn => g.bIn
  | .outIn => g.outIn
  | .ramIn => g.ramIn
  | .jump => g.jump
  | .counterEnable => g.counterEnable
  | .halt => g.halt

/-- The five bus producers (R92). -/
def producerSignals : List Signal := [.counterOut, .ramOut, .irOut, .aOut, .aluOut]

/-- The seven bus consumers (R92). -/
def consumerSignals : List Signal := [.loadMAR, .irIn, .aIn, .bIn, .outIn, .ramIn, .jump]

/-- How many producers a set holds; the hardware's rule is "at most one" (R109). -/
def producerCount (g : SignalSet) : Nat := producerSignals.countP (asserts g)

/-- How many consumers a set holds. -/
def consumerCount (g : SignalSet) : Nat := consumerSignals.countP (asserts g)

end Sys2Proof.Machine
end

