-- ==== Sys2Proof/Word.lean ====
section
/-!
DEFINITION. The machine's word (spec/00_scope.md R4, R5): every register, the bus and every memory cell is a
nibble, and every memory address is a nibble.
-/

namespace Sys2Proof

/-- A 4-bit value, 0 to 15, on which arithmetic wraps (R5, R25). -/
abbrev Nibble := BitVec 4

/-- The step counter's value, 0 to 7, advanced mod 8 (R21). -/
abbrev StepNo := BitVec 3

end Sys2Proof
end

