-- ==== Sys2Proof/Machine/ControlUnit.lean ====
section
/-!
DEFINITION. The control unit: the stateless decoder from (opcode, step, flags) to a signal set, written as the table of
spec/40_control_unit.md R111.
-/

namespace Sys2Proof.Machine

/-- `F` of R111: the set of step 0 of every opcode and of step 3 of format M. -/
def sigAddressByPc : SignalSet := { counterOut := true, loadMAR := true }

/-- Step 1 of every opcode. -/
def sigCount : SignalSet := { counterEnable := true }

/-- Step 2 of every opcode. -/
def sigFetch : SignalSet := { ramOut := true, irIn := true }

/-- `G` of R111: step 4 of LDA, ADD, SUB and STA. -/
def sigOperandToMar : SignalSet := { ramOut := true, counterEnable := true, loadMAR := true }

/-- Step 4 of LDI. -/
def sigOperandToA : SignalSet := { ramOut := true, counterEnable := true, aIn := true }

/-- Step 4 of JMP and of a taken JC or JZ. -/
def sigOperandToPc : SignalSet := { ramOut := true, jump := true }

/-- Step 4 of a JC or JZ that is not taken. -/
def sigOperandDropped : SignalSet := { ramOut := true, counterEnable := true }

/-- Step 5 of LDA. -/
def sigCellToA : SignalSet := { ramOut := true, aIn := true }

/-- Step 5 of ADD and SUB. -/
def sigCellToB : SignalSet := { ramOut := true, bIn := true }

/-- Step 5 of STA. -/
def sigAToCell : SignalSet := { aOut := true, ramIn := true }

/-- Step 6 of ADD. -/
def sigAluToA : SignalSet := { aluOut := true, aIn := true }

/-- Step 3 of OUT. -/
def sigAToOut : SignalSet := { aOut := true, outIn := true }

/-- Step 3 of HLT. -/
def sigHalt : SignalSet := { halt := true }

/-- A set with Subtract a member exactly if `b` (R98). -/
def withSubtract (b : Bool) (g : SignalSet) : SignalSet := { g with subtract := b }

/-- The columns of steps 3 to 7 of one row of R111. -/
structure ExecuteRow where
  step3 : SignalSet := noSignals
  step4 : SignalSet := noSignals
  step5 : SignalSet := noSignals
  step6 : SignalSet := noSignals
  step7 : SignalSet := noSignals
deriving DecidableEq, Repr

/-- Step 4 of a conditional jump, taken or not (R111, R173). -/
def sigJumpIf (taken : Bool) : SignalSet := if taken then sigOperandToPc else sigOperandDropped

/-- The rows of R111. The last arm is NOP and the reserved opcodes 0x9 to 0xD, which map to the NOP row (R66). -/
def executeRow (op : Nibble) (z c : Bool) : ExecuteRow :=
  match op.toNat with
  | 0x1 => { step3 := sigAddressByPc, step4 := sigOperandToMar, step5 := sigCellToA }
  | 0x2 => { step3 := sigAddressByPc, step4 := sigOperandToMar, step5 := sigCellToB, step6 := sigAluToA }
  | 0x3 =>
    { step3 := withSubtract Config.subSubtractSteps.step3 sigAddressByPc
      step4 := withSubtract Config.subSubtractSteps.step4 sigOperandToMar
      step5 := withSubtract Config.subSubtractSteps.step5 sigCellToB
      step6 := withSubtract true sigAluToA }
  | 0x4 => { step3 := sigAddressByPc, step4 := sigOperandToMar, step5 := sigAToCell }
  | 0x5 => { step3 := sigAddressByPc, step4 := sigOperandToA }
  | 0x6 => { step3 := sigAddressByPc, step4 := sigOperandToPc }
  | 0x7 => { step3 := sigAddressByPc, step4 := sigJumpIf c }
  | 0x8 => { step3 := sigAddressByPc, step4 := sigJumpIf z }
  | 0xE => { step3 := sigAToOut }
  | 0xF => { step3 := sigHalt }
  | _ => {}

/-- `Decode(op, step, z, c)` (R91): the fetch steps 0 to 2 are the same for all opcodes (R110), the others are the row's. -/
def controlDecode (op : Nibble) (step : StepNo) (z c : Bool) : SignalSet :=
  match step.toNat with
  | 0 => sigAddressByPc
  | 1 => sigCount
  | 2 => sigFetch
  | 3 => (executeRow op z c).step3
  | 4 => (executeRow op z c).step4
  | 5 => (executeRow op z c).step5
  | 6 => (executeRow op z c).step6
  | _ => (executeRow op z c).step7

end Sys2Proof.Machine
end

