-- ==== Sys2Proof/Machine/Flags.lean ====
section
/-!
DEFINITION. The ALU as a combinational function (spec/43_arithmetic.md R150 to R154): the 4-bit result and both flags,
which are the only flags of the machine.
-/

namespace Sys2Proof.Machine

/-- What one ALU computation gives: `(result, zero, carry)`. -/
structure AluOutput where
  result : Nibble
  zero : Bool
  carry : Bool
deriving DecidableEq, Repr

/-- The zero flag, computed from the 4-bit result after wrapping (R152). -/
def zeroFlag (result : Nibble) : Bool :=
  decide (result = 0#4)

/-- `ALU(a, b, false)`: the sum mod 16, carry when the exact sum is above 15 (R150). -/
def aluAdd (a b : Nibble) : AluOutput :=
  let r := BitVec.ofNat 4 (a.toNat + b.toNat)
  { result := r, zero := zeroFlag r, carry := decide (15 < a.toNat + b.toNat) }

/-- `ALU(a, b, true)`: a - b shifted by +16 and masked, carry as the borrow (R151). -/
def aluSub (a b : Nibble) : AluOutput :=
  let r := BitVec.ofInt 4 ((a.toNat : Int) - b.toNat + 16)
  { result := r, zero := zeroFlag r, carry := decide (a.toNat < b.toNat) }

/-- `ALU(a, b, sub)`: the Subtract signal selects the operation (R98, R154). -/
def alu (a b : Nibble) (sub : Bool) : AluOutput :=
  if sub then aluSub a b else aluAdd a b

end Sys2Proof.Machine
end

