-- ==== Sys2Proof/Machine/State.lean ====
section
/-!
DEFINITION. The whole state of the machine (spec/10_state.md R10: "the tuple of the elements below, and nothing else"),
the reasons a model function can stop, and the state right after reset.
-/

namespace Sys2Proof.Machine

/-- RAM as a list of (address, byte) pairs, addresses strictly rising, no pair for a cell that holds what an unlisted cell
reads as. A cell's nibble stands in the low half of its byte and the high half is 0 (log 11). -/
abbrev Memory := List Host.Cell

/-- The tuple of R10. -/
structure State where
  /-- PC, the program counter (R12). -/
  pc : Nibble
  /-- MAR, the address of every RAM access of the core (R13). -/
  mar : Nibble
  /-- IR, the opcode nibble (R14). -/
  ir : Nibble
  /-- A, the accumulator (R15). -/
  a : Nibble
  /-- B, the second ALU operand (R16). -/
  b : Nibble
  /-- OUT, the output register (R17). -/
  out : Nibble
  /-- BUS, the shared value, kept between ticks (R18). -/
  bus : Nibble
  /-- Z, the ALU's zero flag (R19). -/
  zero : Bool
  /-- C, the ALU's carry or borrow flag (R19). -/
  carry : Bool
  /-- ALU.result, the ALU's last result (R20). -/
  aluResult : Nibble
  /-- STEP, the slot of the instruction cycle the next tick performs (R21). -/
  stepCtr : StepNo
  /-- HALTED (R22). -/
  halted : Bool
  /-- SIGNALS, the signal set of the last tick taken while not halted (R23). -/
  signals : SignalSet
  /-- RAM, program and data alike (R24). -/
  ram : Memory
deriving DecidableEq, Repr

/-- The hardware has no fault: "The set of exception causes is empty" (spec/60_exceptions.md R180), so this type has no
constructor and no outcome of the model is a fault (log 13). -/
inductive Fault where
deriving DecidableEq, Repr

/-- Why a function of the model gives no next state. No instruction and no tick is ever refused. -/
inductive Refusal where
  /-- Raised by `exec` for an instruction that has no meaning in the model; no arm raises it. Safe. -/
  | notModelled (mnemonic : String)
  /-- Raised by `applySignalSet` for a hand-made set with two or more bus producers, which "has no meaning and is refused"
  (R116). The decoder never emits one. Safe. -/
  | twoProducers
  /-- Raised by `applySignalSet` for a hand-made set with LoadMAR and RamIn together, of which the source does not say
  which MAR the write uses (R116). The decoder never emits one. Safe. -/
  | loadMarWithRamIn
  /-- Raised by `applyEvent` for a `RamLoadProgram` of more than 16 values, outside the operation's domain (R46). Safe. -/
  | programTooLong
deriving DecidableEq, Repr

/-- The machine right after reset and power-on: every register 0, both flags false, STEP 0, not halted, BUS, ALU.result
and SIGNALS cleared, and every RAM cell 0, that is, none listed (R30, R31; logs 2, 3). -/
def State.reset : State where
  pc := 0x0#4
  mar := 0x0#4
  ir := 0x0#4
  a := 0x0#4
  b := 0x0#4
  out := 0x0#4
  bus := 0x0#4
  zero := false
  carry := false
  aluResult := 0x0#4
  stepCtr := 0#3
  halted := false
  signals := noSignals
  ram := []

end Sys2Proof.Machine
end

