-- ==== Sys2Proof/Machine/Ops.lean ====
section
/-!
DEFINITION. The named operations over memory and registers: the two memory primitives (spec/20_memory.md R42), the generic
register's operations (spec/10_state.md R11), and the effect of each control signal (spec/40_control_unit.md R93 to R107).
The machine takes no exception and returns from none (spec/60_exceptions.md R180, R184), so no operation does that.
-/

namespace Sys2Proof.Machine

/-! ### Memory -/

/-- What a cell that is not listed reads as: "0 on a fresh instance" (R24). -/
def unlistedNibble : Nibble := 0#4

/-- The nibble a listed byte holds. -/
def cellNibble (v : BitVec 8) : Nibble := v.setWidth 4

/-- The byte that holds a nibble. -/
def nibbleCell (v : Nibble) : BitVec 8 := v.setWidth 8

/-- The value of the cell with key `k`. -/
def memLookup (k : Nat) : Memory → Nibble
  | [] => unlistedNibble
  | (k', v) :: rest => if k' = k then cellNibble v else memLookup k rest

/-- `MemRead(addr, 1)` (R42). -/
def memRead (m : Memory) (addr : Nibble) : Nibble :=
  memLookup addr.toNat m

/-- A cell put before `rest`, unless it holds what an unlisted cell reads as. -/
def memCons (k : Nat) (v : Nibble) (rest : Memory) : Memory :=
  if v = unlistedNibble then rest else (k, nibbleCell v) :: rest

/-- The memory with the cell of key `k` set to `v`, in canonical form again. -/
def memInsert (k : Nat) (v : Nibble) : Memory → Memory
  | [] => memCons k v []
  | (k', v') :: rest =>
    if k < k' then memCons k v ((k', v') :: rest)
    else if k = k' then memCons k v rest
    else (k', v') :: memInsert k v rest

/-- `MemWrite(addr, 1, v)` (R42). -/
def memWrite (m : Memory) (addr v : Nibble) : Memory :=
  memInsert addr.toNat v m

/-- One listed cell is in form: an address of the 16, a byte whose high half is 0 (R25), not the unlisted value. -/
def cellWf (c : Host.Cell) : Bool :=
  decide (c.1 < Config.ramWords) && decide (c.2.toNat < 16) && decide (cellNibble c.2 ≠ unlistedNibble)

/-- The canonical form, from a lower bound on the keys. -/
def memWfFrom (lo : Nat) : Memory → Bool
  | [] => true
  | c :: rest => decide (lo ≤ c.1) && cellWf c && memWfFrom (c.1 + 1) rest

/-- The canonical form: addresses strictly rising, every cell in form. -/
def Memory.wf (m : Memory) : Bool := memWfFrom 0 m

/-! ### The generic register -/

/-- `load(v)` stores `v & 0xF`, for any integer `v` (R5, R11). -/
def mask4 (v : Int) : Nibble := BitVec.ofInt 4 v

/-- `increment()` of the generic register: 15 increments to 0 (R11). -/
def regIncrement (x : Nibble) : Nibble := x + 1#4

/-! ### Bus producers (phase 1) -/

/-- A producer's write of the bus (R18). -/
def driveBus (v : Nibble) (s : State) : State := { s with bus := v }

/-- CounterOut (R93). -/
def counterOut (s : State) : State := driveBus s.pc s

/-- RamOut (R94). -/
def ramOut (s : State) : State := driveBus (memRead s.ram s.mar) s

/-- IROut, never asserted by the decoder (R95, log 6). -/
def irOut (s : State) : State := driveBus s.ir s

/-- AOut (R96). -/
def aOut (s : State) : State := driveBus s.a s

/-- The record of one ALU computation: the last result and both flags, together (R19, R20). -/
def recordAlu (o : AluOutput) (s : State) : State :=
  { s with aluResult := o.result, zero := o.zero, carry := o.carry }

/-- AluOut: the one place where the ALU computes and the flags are written (R97); `sub` is the Subtract signal (R98). -/
def aluOut (sub : Bool) (s : State) : State :=
  let o := alu s.a s.b sub
  driveBus o.result (recordAlu o s)

/-! ### Bus consumers (phase 2): each reads the settled bus -/

/-- LoadMAR (R99). -/
def loadMAR (s : State) : State := { s with mar := s.bus }

/-- IRIn (R100). -/
def irIn (s : State) : State := { s with ir := s.bus }

/-- AIn (R101). -/
def aIn (s : State) : State := { s with a := s.bus }

/-- BIn (R102). -/
def bIn (s : State) : State := { s with b := s.bus }

/-- OutIn (R103). -/
def outIn (s : State) : State := { s with out := s.bus }

/-- RamIn (R104). -/
def ramIn (s : State) : State := { s with ram := memWrite s.ram s.mar s.bus }

/-- Jump (R105). -/
def jump (s : State) : State := { s with pc := s.bus }

/-! ### Applied last (phase 3) -/

/-- CounterEnable (R106). -/
def counterEnable (s : State) : State := { s with pc := regIncrement s.pc }

/-- Halt (R107). -/
def halt (s : State) : State := { s with halted := true }

/-! ### What the tick itself does -/

/-- SIGNALS is replaced by the tick's decoder output, the empty set included (R117, log 9). -/
def recordSignals (g : SignalSet) (s : State) : State := { s with signals := g }

/-- STEP advances mod 8 (R113). -/
def advanceStep (s : State) : State := { s with stepCtr := s.stepCtr + 1#3 }

end Sys2Proof.Machine
end

