-- ==== Sys2Proof/Machine/Operands.lean ====
section
/-!
DEFINITION. The parts that the instructions share, at the level of a whole instruction: the fetch (spec/40_control_unit.md
R110), the operand forms of format M (spec/42_load_store.md R140, spec/30_encoding.md R63), the data accesses, the ALU step
and the end of the cycle. Each is the net effect of the ticks it names, with `op` and `q` the nibbles those ticks read.
-/

namespace Sys2Proof.Machine

/-- Steps 0 to 2: the opcode nibble `op` is read from the cell at PC (R110). -/
def fetchOpcode (op : Nibble) (s : State) : State :=
  { s with mar := s.pc, pc := regIncrement s.pc, ir := op, bus := op }

/-- Step 3 of format M: MAR addresses the operand nibble (R140). -/
def addressOperand (s : State) : State :=
  { s with mar := s.pc, bus := s.pc }

/-- The immediate form, step 4 of LDI: the operand is loaded into A and PC moves past it (R141). -/
def operandToA (q : Nibble) (s : State) : State :=
  { s with bus := q, a := q, pc := regIncrement s.pc }

/-- The absolute data address form, step 4 of LDA, STA, ADD and SUB (R140). -/
def operandToMar (q : Nibble) (s : State) : State :=
  { s with bus := q, mar := q, pc := regIncrement s.pc }

/-- The absolute jump target form, step 4 of a taken jump: PC is replaced and not incremented (R105, R170). -/
def operandToPc (q : Nibble) (s : State) : State :=
  { s with bus := q, pc := q }

/-- Step 4 of a jump not taken: the operand reaches the bus and nothing consumes it (R173). -/
def operandDropped (q : Nibble) (s : State) : State :=
  { s with bus := q, pc := regIncrement s.pc }

/-- Step 4 of a conditional jump (R171, R172). -/
def operandToPcIf (taken : Bool) (q : Nibble) (s : State) : State :=
  if taken then operandToPc q s else operandDropped q s

/-- Step 5 of LDA: the addressed cell to A; no flag changes (R142). -/
def cellToA (s : State) : State :=
  { s with bus := memRead s.ram s.mar, a := memRead s.ram s.mar }

/-- Step 5 of ADD and SUB: the addressed cell to B (R155). -/
def cellToB (s : State) : State :=
  { s with bus := memRead s.ram s.mar, b := memRead s.ram s.mar }

/-- Step 5 of STA: A to the addressed cell (R143). -/
def aToCell (s : State) : State :=
  { s with bus := s.a, ram := memWrite s.ram s.mar s.a }

/-- Step 6 of ADD and SUB: the ALU's result to A, its record to the flags (R155, R156). -/
def aluToA (sub : Bool) (s : State) : State :=
  let o := alu s.a s.b sub
  { recordAlu o s with bus := o.result, a := o.result }

/-- Step 3 of OUT (R131). -/
def aToOut (s : State) : State :=
  { s with bus := s.a, out := s.a }

/-- The end of a cycle: the last tick asserted nothing and STEP is 0 again (R112, R113, R117). -/
def endCycle (s : State) : State :=
  { s with signals := noSignals, stepCtr := 0#3 }

/-- Where an HLT stops: its step-3 tick ran to its end, so SIGNALS holds Halt and STEP is 4 (R107, R132, log 4). -/
def haltCycle (s : State) : State :=
  { s with halted := true, signals := sigHalt, stepCtr := 4#3 }

end Sys2Proof.Machine
end

