-- ==== Sys2Proof/Machine/LoadStore.lean ====
section
/-!
DEFINITION. The loads and stores LDI, LDA, STA (spec/42_load_store.md).
-/

namespace Sys2Proof.Machine

/-- Steps 0 to 4 of the instructions that take a data address: MAR holds it, PC is past the operand (R140). -/
def fetchDataAddress (op q : Nibble) (s : State) : State :=
  operandToMar q (addressOperand (fetchOpcode op s))

/-- LDI: the immediate to A; no flag changes (R141). -/
def execLdi (imm : Nibble) (s : State) : Host.Outcome State Fault Refusal :=
  .next (endCycle (operandToA imm (addressOperand (fetchOpcode 0x5#4 s))))

/-- LDA: the addressed cell to A; no flag changes, even when it is 0 (R142). -/
def execLda (addr : Nibble) (s : State) : Host.Outcome State Fault Refusal :=
  .next (endCycle (cellToA (fetchDataAddress 0x1#4 addr s)))

/-- STA: A to the addressed cell, the instruction's own two cells included (R143). -/
def execSta (addr : Nibble) (s : State) : Host.Outcome State Fault Refusal :=
  .next (endCycle (aToCell (fetchDataAddress 0x4#4 addr s)))

end Sys2Proof.Machine
end

