-- ==== Sys2Proof/Machine/Arithmetic.lean ====
section
/-!
DEFINITION. The arithmetic instructions ADD and SUB (spec/43_arithmetic.md R155, R156).
-/

namespace Sys2Proof.Machine

/-- ADD: the cell to B, then A + B to A with both flags (R155). -/
def execAdd (addr : Nibble) (s : State) : Host.Outcome State Fault Refusal :=
  .next (endCycle (aluToA false (cellToB (fetchDataAddress 0x2#4 addr s))))

/-- SUB: the cell to B, then A - B to A with both flags, carry the borrow (R156). -/
def execSub (addr : Nibble) (s : State) : Host.Outcome State Fault Refusal :=
  .next (endCycle (aluToA true (cellToB (fetchDataAddress 0x3#4 addr s))))

end Sys2Proof.Machine
end

