-- ==== Sys2Proof/Machine/Implied.lean ====
section
/-!
DEFINITION. The one-nibble instructions NOP, OUT, HLT and the reserved opcodes (spec/41_implied.md).
-/

namespace Sys2Proof.Machine

/-- One nibble, no effect but the fetch's: NOP and the reserved opcodes (R130, R133). -/
def fetchOnly (op : Nibble) (s : State) : State := endCycle (fetchOpcode op s)

/-- NOP (R130). -/
def execNop (s : State) : Host.Outcome State Fault Refusal := .next (fetchOnly 0x0#4 s)

/-- Reserved opcode 0x9, a NOP that leaves its own value in IR and BUS (R133). -/
def execRsv9 (s : State) : Host.Outcome State Fault Refusal := .next (fetchOnly 0x9#4 s)

/-- Reserved opcode 0xA (R133). -/
def execRsvA (s : State) : Host.Outcome State Fault Refusal := .next (fetchOnly 0xA#4 s)

/-- Reserved opcode 0xB (R133). -/
def execRsvB (s : State) : Host.Outcome State Fault Refusal := .next (fetchOnly 0xB#4 s)

/-- Reserved opcode 0xC (R133). -/
def execRsvC (s : State) : Host.Outcome State Fault Refusal := .next (fetchOnly 0xC#4 s)

/-- Reserved opcode 0xD (R133). -/
def execRsvD (s : State) : Host.Outcome State Fault Refusal := .next (fetchOnly 0xD#4 s)

/-- OUT: A to the output register (R131). -/
def execOut (s : State) : Host.Outcome State Fault Refusal := .next (endCycle (aToOut (fetchOpcode 0xE#4 s)))

/-- HLT: the machine stops with PC one past the HLT (R132). -/
def execHlt (s : State) : Host.Outcome State Fault Refusal := .next (haltCycle (fetchOpcode 0xF#4 s))

end Sys2Proof.Machine
end

