-- ==== Sys2Proof/Machine/Jumps.lean ====
section
/-!
DEFINITION. The jumps JMP, JC, JZ (spec/44_jumps.md). No flag is written by any of them.
-/

namespace Sys2Proof.Machine

/-- JMP (R170). -/
def execJmp (target : Nibble) (s : State) : Host.Outcome State Fault Refusal :=
  .next (endCycle (operandToPc target (addressOperand (fetchOpcode 0x6#4 s))))

/-- JC, taken if the carry flag is set (R171). -/
def execJc (target : Nibble) (s : State) : Host.Outcome State Fault Refusal :=
  .next (endCycle (operandToPcIf s.carry target (addressOperand (fetchOpcode 0x7#4 s))))

/-- JZ, taken if the zero flag is set (R172). -/
def execJz (target : Nibble) (s : State) : Host.Outcome State Fault Refusal :=
  .next (endCycle (operandToPcIf s.zero target (addressOperand (fetchOpcode 0x8#4 s))))

end Sys2Proof.Machine
end

