-- ==== Sys2Proof/Syntax.lean ====
section
/-!
DEFINITION. The instructions: one constructor for each row of spec/opcode_table.json (spec/30_encoding.md R65). The
operand of a format M instruction is its second nibble, used exactly as stored (R63).
-/

namespace Sys2Proof

/-- The closed set of the sixteen opcode values, each with its operand (R60 to R65). -/
inductive Instr where
  /-- 0x0, no operation (R130). -/
  | nop
  /-- 0x1, load A from the cell at `addr` (R142). -/
  | lda (addr : Nibble)
  /-- 0x2, add the cell at `addr` to A (R155). -/
  | add (addr : Nibble)
  /-- 0x3, subtract the cell at `addr` from A (R156). -/
  | sub (addr : Nibble)
  /-- 0x4, store A to the cell at `addr` (R143). -/
  | sta (addr : Nibble)
  /-- 0x5, load the immediate into A (R141). -/
  | ldi (imm : Nibble)
  /-- 0x6, jump to `target` (R170). -/
  | jmp (target : Nibble)
  /-- 0x7, jump to `target` if the carry flag is set (R171). -/
  | jc (target : Nibble)
  /-- 0x8, jump to `target` if the zero flag is set (R172). -/
  | jz (target : Nibble)
  /-- 0x9, reserved (R133). -/
  | rsv9
  /-- 0xA, reserved (R133). -/
  | rsvA
  /-- 0xB, reserved (R133). -/
  | rsvB
  /-- 0xC, reserved (R133). -/
  | rsvC
  /-- 0xD, reserved (R133). -/
  | rsvD
  /-- 0xE, copy A to the output register (R131). -/
  | out
  /-- 0xF, halt (R132). -/
  | hlt
deriving DecidableEq, Repr

end Sys2Proof
end

