-- ==== Sys2Proof/Machine/Dispatch.lean ====
section
/-!
DEFINITION. The dispatch from instructions to their meanings: one arm for each constructor.
-/

namespace Sys2Proof.Machine

def exec (i : Instr) (s : State) : Host.Outcome State Fault Refusal :=
  match i with
  | .nop => Sys2Proof.Machine.execNop s
  | .lda addr => Sys2Proof.Machine.execLda addr s
  | .add addr => Sys2Proof.Machine.execAdd addr s
  | .sub addr => Sys2Proof.Machine.execSub addr s
  | .sta addr => Sys2Proof.Machine.execSta addr s
  | .ldi imm => Sys2Proof.Machine.execLdi imm s
  | .jmp target => Sys2Proof.Machine.execJmp target s
  | .jc target => Sys2Proof.Machine.execJc target s
  | .jz target => Sys2Proof.Machine.execJz target s
  | .rsv9 => Sys2Proof.Machine.execRsv9 s
  | .rsvA => Sys2Proof.Machine.execRsvA s
  | .rsvB => Sys2Proof.Machine.execRsvB s
  | .rsvC => Sys2Proof.Machine.execRsvC s
  | .rsvD => Sys2Proof.Machine.execRsvD s
  | .out => Sys2Proof.Machine.execOut s
  | .hlt => Sys2Proof.Machine.execHlt s

end Sys2Proof.Machine
end

