-- ==== Sys2Proof/WellFormed.lean ====
section
/-!
DEFINITION. Well-formedness. Every instruction is well formed, because its operand is a nibble by type and every operand
value is legal (spec/30_encoding.md R63, R67). The one check with content is the domain of the host's program image
(spec/20_memory.md R46).
-/

namespace Sys2Proof

/-- No encoding is illegal: every opcode with every operand nibble is well formed (R67). -/
def WellFormed : Instr → Bool
  | .nop => true
  | .lda _ => true
  | .add _ => true
  | .sub _ => true
  | .sta _ => true
  | .ldi _ => true
  | .jmp _ => true
  | .jc _ => true
  | .jz _ => true
  | .rsv9 => true
  | .rsvA => true
  | .rsvB => true
  | .rsvC => true
  | .rsvD => true
  | .out => true
  | .hlt => true

/-- The stated domain of `RamLoadProgram`: at most 16 values (R46). -/
def imageFits (words : List Int) : Bool :=
  decide (words.length ≤ Config.ramWords)

/-- The stated domain of `RamLoadProgram`: every value in 0 to 15 (R46). -/
def imageInRange (words : List Int) : Bool :=
  words.all fun v => decide (0 ≤ v ∧ v ≤ 15)

/-- A program image as the spec states its domain: "a sequence of ≤16 values in [0,15]" (R46). -/
def WellFormedImage (words : List Int) : Bool :=
  imageFits words && imageInRange words

end Sys2Proof
end

