-- ==== Sys2Proof/Decode.lean ====
section
/-!
DEFINITION. Nibbles to instructions and back (spec/30_encoding.md R60 to R70). The length follows from the opcode alone
(R64), every opcode has a meaning (R65 to R67), and a list of nibbles is refused only where it ends too early.
-/

namespace Sys2Proof

/-- Why a list of nibbles holds no instruction: it ends before one is complete. The machine never meets either, since its
memory wraps (spec/20_memory.md R51); both are safe. -/
inductive DecodeError where
  /-- There is no opcode nibble. -/
  | noOpcode
  /-- The opcode takes an operand and the list ends after it. -/
  | missingOperand (op : Nibble)
deriving DecidableEq, Repr

/-- The instruction that opcode nibble `op` and the nibble after it, `q`, stand for. Format N ignores `q` (R65). -/
def decodePair (op q : Nibble) : Instr :=
  match op.toNat with
  | 0x0 => .nop
  | 0x1 => .lda q
  | 0x2 => .add q
  | 0x3 => .sub q
  | 0x4 => .sta q
  | 0x5 => .ldi q
  | 0x6 => .jmp q
  | 0x7 => .jc q
  | 0x8 => .jz q
  | 0x9 => .rsv9
  | 0xA => .rsvA
  | 0xB => .rsvB
  | 0xC => .rsvC
  | 0xD => .rsvD
  | 0xE => .out
  | _ => .hlt

/-- The length is told from the opcode nibble alone: 0x1 to 0x8 take an operand nibble, all others do not (R64). -/
def takesOperand (op : Nibble) : Bool :=
  decide (0x1 ≤ op.toNat ∧ op.toNat ≤ 0x8)

/-- The first instruction of a list of nibbles and the nibbles after it. -/
def decode : List Nibble → Except DecodeError (Instr × List Nibble)
  | [] => .error .noOpcode
  | [op] => if takesOperand op then .error (.missingOperand op) else .ok (decodePair op 0#4, [])
  | op :: q :: rest =>
    if takesOperand op then .ok (decodePair op q, rest) else .ok (decodePair op 0#4, q :: rest)

/-- All instructions of a list of nibbles laid out one after another. -/
def decodeAll : List Nibble → Except DecodeError (List Instr)
  | [] => .ok []
  | [op] => if takesOperand op then .error (.missingOperand op) else .ok [decodePair op 0#4]
  | op :: q :: rest =>
    if takesOperand op then (decodeAll rest).map (decodePair op q :: ·)
    else (decodeAll (q :: rest)).map (decodePair op 0#4 :: ·)

/-- The opcode nibble of an instruction (R65). -/
def opcodeOf : Instr → Nibble
  | .nop => 0x0#4
  | .lda _ => 0x1#4
  | .add _ => 0x2#4
  | .sub _ => 0x3#4
  | .sta _ => 0x4#4
  | .ldi _ => 0x5#4
  | .jmp _ => 0x6#4
  | .jc _ => 0x7#4
  | .jz _ => 0x8#4
  | .rsv9 => 0x9#4
  | .rsvA => 0xA#4
  | .rsvB => 0xB#4
  | .rsvC => 0xC#4
  | .rsvD => 0xD#4
  | .out => 0xE#4
  | .hlt => 0xF#4

/-- The operand nibble of a format M instruction (R62, R63). -/
def operandOf : Instr → Option Nibble
  | .nop => none
  | .lda q => some q
  | .add q => some q
  | .sub q => some q
  | .sta q => some q
  | .ldi q => some q
  | .jmp q => some q
  | .jc q => some q
  | .jz q => some q
  | .rsv9 => none
  | .rsvA => none
  | .rsvB => none
  | .rsvC => none
  | .rsvD => none
  | .out => none
  | .hlt => none

/-- The nibbles of an instruction, opcode first (R47, R61, R62). -/
def encode (i : Instr) : List Nibble :=
  opcodeOf i :: (operandOf i).toList

/-- The first nibble of an instruction whose bits are `w`, bits 3 to 0. -/
def tableOpcode (nbits w : Nat) : Nibble :=
  BitVec.ofNat 4 (w % 2 ^ nbits)

/-- The second nibble of an instruction whose bits are `w`, bits 7 to 4, zero where the table gives no such bits. -/
def tableOperand (nbits w : Nat) : Nibble :=
  BitVec.ofNat 4 (w % 2 ^ nbits / 16)

/-- The instruction the decoder reads from an instruction whose bits are `w`, numbered as spec/opcode_table.json numbers
them: the words are nibbles, the opcode in bits 3 to 0 and the operand in bits 7 to 4 (log 14). -/
def decodeTableWord (nbits w : Nat) : Option Instr :=
  match decode [tableOpcode nbits w, tableOperand nbits w] with
  | .ok (i, _) => some i
  | .error _ => none

end Sys2Proof
end

