-- ==== Sys2Proof/Machine/Fetch.lean ====
section
/-!
DEFINITION. Fetching an instruction's nibbles from memory, and placing them there.
-/

namespace Sys2Proof.Machine

/-- The opcode nibble of the next instruction: the cell at PC (spec/40_control_unit.md R110). -/
def opcodeAt (s : State) : Nibble := memRead s.ram s.pc

/-- The nibble after it, at (PC + 1) mod 16 (spec/20_memory.md R47, R51). -/
def operandAt (s : State) : Nibble := memRead s.ram (regIncrement s.pc)

/-- The instruction whose nibbles stand at PC; every nibble decodes (spec/30_encoding.md R67, R68). -/
def fetchInstr (s : State) : Instr := decodePair (opcodeAt s) (operandAt s)

/-- Opcode nibble `op` and operand nibble `q` stored where the next instruction is fetched, at an instruction boundary of a
machine that is not halted. -/
def placeAtPc (op q : Nibble) (s : State) : State :=
  { s with
    ram := memWrite (memWrite s.ram s.pc op) (regIncrement s.pc) q
    stepCtr := 0#3
    halted := false }

end Sys2Proof.Machine
end

