-- ==== Sys2Proof/Machine/Tick.lean ====
section
/-!
DEFINITION. One clock tick (spec/40_control_unit.md R90): the decoder's set applied in three phases, then STEP. This is the
normative level of the spec (spec/00_scope.md R9); `Machine.step` of Step.lean is what the ticks of one instruction cycle
do together.
-/

namespace Sys2Proof.Machine

/-- The effect `f` exactly if its signal is asserted. -/
def onSignal (b : Bool) (f : State → State) (s : State) : State :=
  if b then f s else s

/-- Phase 1: the producer writes the bus from the registers and RAM as the tick found them (R108). -/
def applyProducers (g : SignalSet) (s : State) : State :=
  onSignal g.aluOut (aluOut g.subtract)
    (onSignal g.aOut aOut (onSignal g.irOut irOut (onSignal g.ramOut ramOut (onSignal g.counterOut counterOut s))))

/-- Phase 2: every consumer takes the settled bus value (R108). -/
def applyConsumers (g : SignalSet) (s : State) : State :=
  onSignal g.jump jump
    (onSignal g.ramIn ramIn
      (onSignal g.outIn outIn (onSignal g.bIn bIn (onSignal g.aIn aIn (onSignal g.irIn irIn (onSignal g.loadMAR loadMAR s))))))

/-- Phase 3: CounterEnable and Halt apply last (R108). -/
def applyLast (g : SignalSet) (s : State) : State :=
  onSignal g.halt halt (onSignal g.counterEnable counterEnable s)

/-- The three phases in their order (R108). -/
def applyPhases (g : SignalSet) (s : State) : State :=
  applyLast g (applyConsumers g (applyProducers g s))

/-- The signal set of the next tick; the decoder's inputs are sampled before any signal is applied (R91, R118). -/
def tickSignals (s : State) : SignalSet :=
  controlDecode s.ir s.stepCtr s.zero s.carry

/-- `Tick` (R90); a halted tick changes nothing (R114). It is total: it never fails and never blocks. -/
def tick (s : State) : State :=
  if s.halted then s
  else advanceStep (applyPhases (tickSignals s) (recordSignals (tickSignals s) s))

/-- `n` ticks with no other event among them. -/
def tickN : Nat → State → State
  | 0, s => s
  | n + 1, s => tickN n (tick s)

/-- The ticks that are left of the instruction cycle under way; eight of them when STEP is 0 (R113). -/
def finishCycle (s : State) : State :=
  tickN (Config.steps - s.stepCtr.toNat) s

/-- The application of an arbitrary signal set, with the refusals of R116 (log 7). The tick needs it on no set but the
decoder's, and those it never refuses. -/
def applySignalSet (g : SignalSet) (s : State) : Host.Outcome State Fault Refusal :=
  if 1 < producerCount g then .refused .twoProducers
  else if g.loadMAR && g.ramIn then .refused .loadMarWithRamIn
  else .next (applyPhases g s)

end Sys2Proof.Machine
end

