-- ==== Sys2Proof/Machine/Step.lean ====
section
/-!
DEFINITION. One step of the machine: the rest of the instruction cycle, which is a whole instruction when STEP is 0.
-/

namespace Sys2Proof.Machine

/-- One step. A halted machine stays as it is (spec/40_control_unit.md R114). At STEP 0 the step is one instruction, the
eight ticks of R119. In the middle of a cycle it is the ticks that are left of it (spec/10_state.md R32; logs 1, 16). -/
def step (s : State) : Host.Outcome State Fault Refusal :=
  if s.halted then .next s
  else if s.stepCtr = 0#3 then exec (fetchInstr s) s
  else .next (finishCycle s)

/-- `s` with the instruction whose bits are `w` stored at PC, its STEP 0 and not halted, so that the next step runs it
(log 12). -/
def State.withFetchWord (s : State) (nbits w : Nat) : State :=
  placeAtPc (tableOpcode nbits w) (tableOperand nbits w) s

end Sys2Proof.Machine
end

