-- ==== Sys2Proof/Machine/Assembler.lean ====
section
/-!
DEFINITION. The two-pass assembler on lines already split into tokens (spec/30_encoding.md R71 to R79): address
resolution, emission, errors. It is software beside the machine (spec/00_scope.md R3 (e)); reading lines of text into
tokens is left out, and inputs the source does not describe are refused (log 17).
-/

namespace Sys2Proof.Machine

/-- The mnemonic token of a line (R74), the pseudo-instruction DATA among them (R76). -/
inductive AsmMnemonic where
  | nop | lda | add | sub | sta | ldi | jmp | jc | jz | out | hlt
  | data
  | unknown (name : String)
deriving DecidableEq, Repr

/-- What an operand token is read as, if it is read as an integer (R75). -/
inductive AsmLiteral where
  /-- A decimal integer. -/
  | decimal (n : Nat)
  /-- DESIGN CHOICE (log 22): a token of a form of which the source does not say whether it parses: negative, hexadecimal,
  binary (N10). It is refused as undescribed wherever it would have to be parsed. -/
  | undescribed
deriving DecidableEq, Repr

/-- An operand token, with what it is read as where it is not just a name (R75). -/
structure AsmOperand where
  token : String
  literal : Option AsmLiteral := none
deriving DecidableEq, Repr

/-- `MNEMONIC [OPERAND]` (R72). -/
structure AsmStmt where
  mnemonic : AsmMnemonic
  operand : Option AsmOperand := none
deriving DecidableEq, Repr

/-- One retained line, with the number it is reported under (R72, R79). -/
structure AsmLine where
  number : Nat
  label : Option String := none
  stmt : Option AsmStmt := none
deriving DecidableEq, Repr

/-- The line-numbered errors of R79, and `undescribed` for an input of which the source says nothing (U18; logs 17, 22). -/
inductive AsmError where
  | tooLong (line : Nat)
  | unknownInstruction (line : Nat)
  | missingOperand (line : Nat)
  | unparseableOperand (line : Nat)
  | unparseableData (line : Nat)
  | undescribed (line : Nat)
deriving DecidableEq, Repr

/-- The instruction a mnemonic with an operand stands for (R74). -/
def withOperand : AsmMnemonic → Option (Nibble → Instr)
  | .lda => some .lda
  | .add => some .add
  | .sub => some .sub
  | .sta => some .sta
  | .ldi => some .ldi
  | .jmp => some .jmp
  | .jc => some .jc
  | .jz => some .jz
  | _ => none

/-- The instruction a mnemonic without an operand stands for (R74). -/
def withoutOperand : AsmMnemonic → Option Instr
  | .nop => some .nop
  | .out => some .out
  | .hlt => some .hlt
  | _ => none

/-- The label table: labels with their addresses (R71). -/
abbrev Labels := List (String × Nat)

/-- The address of a known label (R75). DESIGN CHOICE (log 24): labels are compared as the strings they arrive as; the grammar is
case-insensitive (R72), so the reader of the text is taken to hand every spelling of a label over in one case. -/
def labelAddress (t : String) : Labels → Option Nat
  | [] => none
  | (t', n) :: rest => if t' = t then some n else labelAddress t rest

/-- The width rule (R77). -/
def stmtWidth : AsmMnemonic → Nat
  | .nop | .out | .hlt | .data => 1
  | _ => 2

/-- Pass 1: each label at the address of the next nibble, each statement's width added (R73, R77, R79). A label defined
twice is undescribed (log 17). DESIGN CHOICE (log 25): any string is accepted as a label, one that is spelled as a mnemonic
included; the source does not say which labels are allowed (N10). -/
def pass1 (addr : Nat) (labels : Labels) : List AsmLine → Except AsmError Labels
  | [] => .ok labels
  | l :: rest =>
    let labels' := match l.label with
      | none => labels
      | some t => (t, addr) :: labels
    if (match l.label with | none => false | some t => (labelAddress t labels).isSome) then .error (.undescribed l.number)
    else match l.stmt with
      | none => pass1 addr labels' rest
      | some st =>
        match st.mnemonic with
        | .unknown _ => .error (.unknownInstruction l.number)
        | m => if Config.ramWords < addr + stmtWidth m then .error (.tooLong l.number)
               else pass1 (addr + stmtWidth m) labels' rest

/-- The operand nibble: the address of the label the token is, else the literal masked to 4 bits (R75). DESIGN CHOICE
(log 21): a label after the 16th nibble keeps address 16 in the label table, and a reference to it gives 16 masked to 4 bits,
which is 0; the source does not say what it gives. -/
def operandNibble (labels : Labels) (line : Nat) : Option AsmOperand → Except AsmError Nibble
  | none => .error (.missingOperand line)
  | some o =>
    match labelAddress o.token labels, o.literal with
    | some n, _ => .ok (BitVec.ofNat 4 n)
    | none, some (.decimal n) => .ok (BitVec.ofNat 4 n)
    | none, some .undescribed => .error (.undescribed line)
    | none, none => .error (.unparseableOperand line)

/-- The literal nibble of DATA, masked to 4 bits (R76). A label as a DATA value is undescribed (N10, log 17). DESIGN CHOICE
(log 23): DATA with no value token gives the error of a DATA value that is not parseable; the source does not name the case. -/
def dataNibble (labels : Labels) (line : Nat) : Option AsmOperand → Except AsmError Nibble
  | none => .error (.unparseableData line)
  | some o =>
    match labelAddress o.token labels, o.literal with
    | some _, _ => .error (.undescribed line)
    | none, some (.decimal n) => .ok (BitVec.ofNat 4 n)
    | none, some .undescribed => .error (.undescribed line)
    | none, none => .error (.unparseableData line)

/-- The nibbles of one statement (R74 to R76). An operand on NOP, OUT or HLT is undescribed (N10). -/
def emitStmt (labels : Labels) (line : Nat) (st : AsmStmt) : Except AsmError (List Nibble) :=
  match withOperand st.mnemonic, withoutOperand st.mnemonic, st.mnemonic with
  | some f, _, _ => (operandNibble labels line st.operand).map fun q => encode (f q)
  | none, some i, _ => if st.operand.isNone then .ok (encode i) else .error (.undescribed line)
  | none, none, .data => (dataNibble labels line st.operand).map fun v => [v]
  | none, none, _ => .error (.unknownInstruction line)

/-- Pass 2: the lines emitted in order (R78). -/
def pass2 (labels : Labels) : List AsmLine → Except AsmError (List Nibble)
  | [] => .ok []
  | l :: rest =>
    match l.stmt with
    | none => pass2 labels rest
    | some st =>
      match emitStmt labels l.number st with
      | .error e => .error e
      | .ok ns => (pass2 labels rest).map (ns ++ ·)

/-- What the assembler produces: the code array and the label table (R71). -/
structure Assembly where
  image : List Nibble
  labels : Labels
deriving DecidableEq, Repr

/-- `assemble`: always 16 nibbles, unused trailing slots 0 (R71, R78). -/
def assemble (lines : List AsmLine) : Except AsmError Assembly :=
  match pass1 0 [] lines with
  | .error e => .error e
  | .ok labels =>
    (pass2 labels lines).map fun ns =>
      { image := ns ++ List.replicate (Config.ramWords - ns.length) 0#4, labels := labels }

end Sys2Proof.Machine
end

