-- ==== Sys2Proof/Machine/HostPort.lean ====
section
/-!
DEFINITION. What the host can do to the machine and see of it (spec/60_exceptions.md R194, spec/10_state.md R27).
-/

namespace Sys2Proof.Machine

/-- `Reset`: "zero all state except RAM", with the same result from every state (spec/70_reset_and_hazards.md R200, R201). -/
def resetEvent (s : State) : State := { State.reset with ram := s.ram }

/-- `RamWrite(addr, val)`: both arguments masked to 4 bits, RAM only (spec/20_memory.md R45). -/
def ramWrite (addr val : Int) (s : State) : State :=
  { s with ram := memWrite s.ram (mask4 addr) (mask4 val) }

/-- `RamRead(addr)`, the argument masked to 4 bits (R45). -/
def ramRead (addr : Int) (s : State) : Nibble := memRead s.ram (mask4 addr)

/-- The values of an image written positionally from address `i` upward, each masked to 4 bits (R46). -/
def loadFrom (i : Nat) : List Int → Memory → Memory
  | [], m => m
  | v :: rest, m => loadFrom (i + 1) rest (memWrite m (BitVec.ofNat 4 i) (mask4 v))

/-- `RamLoadProgram(words)`; more than 16 values are refused, cells beyond the image stay (R46, log 8). -/
def ramLoadProgram (words : List Int) (s : State) : Host.Outcome State Fault Refusal :=
  if imageFits words then .next { s with ram := loadFrom 0 words s.ram } else .refused .programTooLong

/-- The atomic events that can reach the machine (spec/00_scope.md R8). They never overlap (R183, log 10). -/
inductive Event where
  | tick
  | reset
  | ramWrite (addr val : Int)
  | ramLoadProgram (words : List Int)
  | ramRead (addr : Int)
deriving DecidableEq, Repr

/-- One event; each is available in every state (R194). -/
def applyEvent : Event → State → Host.Outcome State Fault Refusal
  | .tick, s => .next (tick s)
  | .reset, s => .next (resetEvent s)
  | .ramWrite addr val, s => .next (ramWrite addr val s)
  | .ramLoadProgram words, s => ramLoadProgram words s
  | .ramRead _, s => .next s

/-- A sequence of events, stopping at the first that is refused. -/
def applyEvents : List Event → State → Host.Outcome State Fault Refusal
  | [], s => .next s
  | e :: rest, s =>
    match applyEvent e s with
    | .next s' => applyEvents rest s'
    | .fault r => .fault r
    | .refused r => .refused r

/-- The host's read accessors; the cells are read by `ramRead`. `BUS` and `ALU.result` are not among them (R27, log 18). -/
structure HostView where
  pc : Nibble
  mar : Nibble
  ir : Nibble
  a : Nibble
  b : Nibble
  out : Nibble
  zero : Bool
  carry : Bool
  step : Nat
  halted : Bool
  signals : SignalSet
deriving DecidableEq, Repr

/-- What the read accessors answer (R27). -/
def hostView (s : State) : HostView :=
  { pc := s.pc, mar := s.mar, ir := s.ir, a := s.a, b := s.b, out := s.out, zero := s.zero, carry := s.carry
    step := s.stepCtr.toNat, halted := s.halted, signals := s.signals }

end Sys2Proof.Machine
end

