-- ==== Sys2Proof/Safety.lean ====
section
/-!
DEFINITION. The terms claims are stated in: instruction boundaries, the end of a run, the invariant of reachable states,
and what two states share in the eyes of the host and of a program.
-/

namespace Sys2Proof.Machine

/-- A state in which the next tick begins an instruction (spec/00_scope.md R9, spec/40_control_unit.md R119). -/
def AtBoundary (s : State) : Prop := s.stepCtr = 0#3 ∧ s.halted = false

/-- The end of a run is the halted state and nothing else (spec/70_reset_and_hazards.md R219). -/
def RunEnded (s : State) : Prop := s.halted = true

/-- The signal set the last tick must have recorded, read off the state it left: nothing at STEP 0 (step 7 of every opcode
is idle, and reset clears the record), else what the decoder gives for the step before (R112, R117). -/
def recordedSignals (s : State) : SignalSet :=
  if s.stepCtr = 0#3 then noSignals else controlDecode s.ir (s.stepCtr - 1#3) s.zero s.carry

/-- The fifteen signal sets that the decoder can return, as R115 of spec/40_control_unit.md lists them. -/
def decoderImage : List SignalSet :=
  [{}, { counterOut := true, loadMAR := true }, { counterEnable := true }, { ramOut := true, irIn := true },
    { aOut := true, outIn := true }, { halt := true }, { ramOut := true, counterEnable := true, aIn := true },
    { ramOut := true, counterEnable := true, loadMAR := true }, { ramOut := true, aIn := true },
    { aOut := true, ramIn := true }, { ramOut := true, bIn := true }, { aluOut := true, aIn := true },
    { aluOut := true, aIn := true, subtract := true }, { ramOut := true, jump := true },
    { ramOut := true, counterEnable := true }]

/-- The last value that event `e` of the host writes to cell `a` is `v` (spec/20_memory.md R45, R46). -/
def hostWrites (e : Event) (a v : Nibble) : Prop :=
  match e with
  | .ramWrite addr val => mask4 addr = a ∧ mask4 val = v
  | .ramLoadProgram words => ∃ x, words[a.toNat]? = some x ∧ mask4 x = v
  | .tick => False
  | .reset => False
  | .ramRead _ => False

/-- What holds of every state the host can bring about (spec/10_state.md R25, R32). -/
structure Inv (s : State) : Prop where
  /-- Memory is in canonical form: every cell an address of the 16 with a value of 4 bits (R25). -/
  memoryCanonical : s.ram.wf = true
  /-- SIGNALS records the last tick (R117). -/
  signalsRecorded : s.signals = recordedSignals s
  /-- A halted machine stopped after the step-3 tick of an HLT (R132). -/
  haltedAfterHlt : s.halted = true → s.ir = 0xF#4 ∧ s.stepCtr = 4#3
  /-- The zero flag and the last result come from one computation (R19, R20). -/
  zeroFromResult : s.zero = true → s.aluResult = 0#4
  /-- After step 0, MAR holds the instruction's address (R110). -/
  marAtStep1 : s.stepCtr = 1#3 → s.mar = s.pc
  /-- After step 1, PC is one past MAR (R110). -/
  marAtStep2 : s.stepCtr = 2#3 → regIncrement s.mar = s.pc
  /-- After step 2, IR holds the nibble that tick put on the bus, and PC is one past its address (R32, R110). -/
  opcodeAtStep3 : s.stepCtr = 3#3 → s.ir = s.bus ∧ regIncrement s.mar = s.pc
  /-- After step 3 of a format M instruction, MAR holds the operand's address (R140). -/
  operandAddressAtStep4 : s.stepCtr = 4#3 → takesOperand s.ir = true → s.mar = s.pc

/-- Everything but the hidden elements `BUS`, `ALU.result` and `SIGNALS`, which no program and no decoder input reads
(spec/10_state.md R28). -/
structure TickView where
  pc : Nibble
  mar : Nibble
  ir : Nibble
  a : Nibble
  b : Nibble
  out : Nibble
  zero : Bool
  carry : Bool
  stepCtr : StepNo
  halted : Bool
  ram : Memory
deriving DecidableEq, Repr

/-- The part of the state that ticks can depend on. -/
def tickView (s : State) : TickView :=
  { pc := s.pc, mar := s.mar, ir := s.ir, a := s.a, b := s.b, out := s.out, zero := s.zero, carry := s.carry
    stepCtr := s.stepCtr, halted := s.halted, ram := s.ram }

/-- What a program can see or leave for the host, at instruction boundaries: MAR, IR and B are scratch there too
(spec/70_reset_and_hazards.md R208, R209). -/
structure ProgramView where
  pc : Nibble
  a : Nibble
  out : Nibble
  zero : Bool
  carry : Bool
  stepCtr : StepNo
  halted : Bool
  ram : Memory
deriving DecidableEq, Repr

/-- The part of the state that the instructions can depend on. -/
def programView (s : State) : ProgramView :=
  { pc := s.pc, a := s.a, out := s.out, zero := s.zero, carry := s.carry, stepCtr := s.stepCtr, halted := s.halted
    ram := s.ram }

/-- `n` steps of the machine. Every step has a next state; the other two outcomes are carried on for the type's sake. -/
def stepN : Nat → State → Host.Outcome State Fault Refusal
  | 0, s => .next s
  | n + 1, s =>
    match step s with
    | .next t => stepN n t
    | .fault r => .fault r
    | .refused r => .refused r

/-- A step is safe if it answers a next state; the spec's machine has no other (spec/60_exceptions.md R180). -/
def StepIsSafe (s : State) : Prop := ∃ t, step s = .next t

end Sys2Proof.Machine
end

