-- ==== Sys2Proof/Certificates/Slice0/Obligations.lean ====
section
/-!
DEFINITION. The statements for the provers. "derived" marks a statement that rests on what the spec itself marks as derived
or as its own decision; its docstring names the sentence of spec/ or the log entry.
-/

open Sys2Proof Sys2Proof.Machine

/-! ### Encoding -/

/-- R65: the complete opcode map, with the format of each value: format M takes the next nibble, format N leaves it. -/
def Obligations.OpcodeMapIsTheSpecs : Prop :=
  ∀ (q : Nibble) (rest : List Nibble),
    decode (0x0#4 :: q :: rest) = .ok (.nop, q :: rest) ∧
    decode (0x1#4 :: q :: rest) = .ok (.lda q, rest) ∧
    decode (0x2#4 :: q :: rest) = .ok (.add q, rest) ∧
    decode (0x3#4 :: q :: rest) = .ok (.sub q, rest) ∧
    decode (0x4#4 :: q :: rest) = .ok (.sta q, rest) ∧
    decode (0x5#4 :: q :: rest) = .ok (.ldi q, rest) ∧
    decode (0x6#4 :: q :: rest) = .ok (.jmp q, rest) ∧
    decode (0x7#4 :: q :: rest) = .ok (.jc q, rest) ∧
    decode (0x8#4 :: q :: rest) = .ok (.jz q, rest) ∧
    decode (0x9#4 :: q :: rest) = .ok (.rsv9, q :: rest) ∧
    decode (0xA#4 :: q :: rest) = .ok (.rsvA, q :: rest) ∧
    decode (0xB#4 :: q :: rest) = .ok (.rsvB, q :: rest) ∧
    decode (0xC#4 :: q :: rest) = .ok (.rsvC, q :: rest) ∧
    decode (0xD#4 :: q :: rest) = .ok (.rsvD, q :: rest) ∧
    decode (0xE#4 :: q :: rest) = .ok (.out, q :: rest) ∧
    decode (0xF#4 :: q :: rest) = .ok (.hlt, q :: rest)

/-- Decode and encode agree, for any sequence of instructions laid out one after another (R47, R60 to R65). -/
def Obligations.DecodingInvertsEncoding : Prop :=
  ∀ is : List Instr, decodeAll (is.flatMap encode) = .ok is

/-- Encode and decode agree in the other direction: each list of nibbles that decodes has one meaning, and it encodes to
that list (R65, R67). -/
def Obligations.EncodingInvertsDecoding : Prop :=
  ∀ (ns : List Nibble) (is : List Instr), decodeAll ns = .ok is → is.flatMap encode = ns

/-- No encoding is illegal (R67, derived there): a list of nibbles decodes, or it ends right after the opcode of a format M
instruction. -/
def Obligations.NoEncodingIsIllegal : Prop :=
  ∀ ns : List Nibble,
    (∃ is, decodeAll ns = .ok is) ∨
    ∃ (is : List Instr) (op : Nibble), takesOperand op = true ∧ ns = is.flatMap encode ++ [op] ∧
      decodeAll ns = .error (.missingOperand op)

/-! ### The step -/

/-- At an instruction boundary a step is `exec` of the instruction whose nibbles stand at PC, with nothing around it: the
meaning itself moves PC past the nibbles (R9, R119, derived there; log 1). -/
def Obligations.StepRunsTheDecodedInstruction : Prop :=
  ∀ (s : State) (i : Instr) (rest : List Nibble), AtBoundary s →
    decode [memRead s.ram s.pc, memRead s.ram (s.pc + 1#4)] = .ok (i, rest) → step s = exec i s

/-- The model's own placing of an instruction (log 12) puts it where the next step fetches. -/
def Obligations.PlacedInstructionIsRunNext : Prop :=
  ∀ (s : State) (nbits w : Nat) (i : Instr), s.ram.wf = true → decodeTableWord nbits w = some i →
    step (s.withFetchWord nbits w) = exec i (s.withFetchWord nbits w)

/-- The instruction level refines the tick level: from every state, a step is the ticks that are left of the instruction
cycle, eight of them at STEP 0 (R9, R113, R119; the net effects of files 41 to 44 are derived by the spec). That a step from
another STEP is the rest of the cycle is the model's own choice (log 16). -/
def Obligations.StepIsTheRestOfTheCycle : Prop :=
  ∀ s : State, step s = .next (tickN (8 - s.stepCtr.toNat) s)

/-- Every step of every state has a next state: the set of exception causes is empty (R180) and there is no stuck state
(R219, the spec's decision D12). So has every event but a program image that is too long (R46, decision D7). -/
def Obligations.EveryStepHasANextState : Prop :=
  (∀ s : State, StepIsSafe s) ∧
  (∀ (n : Nat) (s : State), ∃ t, stepN n s = .next t) ∧
  ∀ (e : Event) (s : State), (∃ t, applyEvent e s = .next t) ∨
    ∃ words, e = .ramLoadProgram words ∧ 16 < words.length ∧ applyEvent e s = .refused .programTooLong

/-! ### Invariant -/

/-- The machine right after reset meets the invariant. -/
def Obligations.ResetMeetsTheInvariant : Prop :=
  Inv State.reset

/-- Every step keeps the invariant: canonical memory, SIGNALS the record of the last tick, a halted machine at STEP 4 of an
HLT, the zero flag with its result, the addresses in MAR during a cycle (R25, R32, R110, R117, R132). -/
def Obligations.StepsKeepTheInvariant : Prop :=
  ∀ s t : State, Inv s → step s = .next t → Inv t

/-- Every event of the host keeps the invariant, at any point of an instruction cycle (R8, R25, R32). -/
def Obligations.EventsKeepTheInvariant : Prop :=
  ∀ (es : List Event) (s t : State), Inv s → applyEvents es s = .next t → Inv t

/-! ### The control unit and the tick -/

/-- R111: the complete output of the decoder, with SUB's open Subtract at steps 3 to 5 as the parameter. -/
def Obligations.DecodeTableIsTheSpecs : Prop :=
  ∀ z c : Bool,
    (∀ op : Nibble,
      controlDecode op 0#3 z c = { counterOut := true, loadMAR := true } ∧
      controlDecode op 1#3 z c = { counterEnable := true } ∧
      controlDecode op 2#3 z c = { ramOut := true, irIn := true }) ∧
    (∀ op ∈ [0x0#4, 0x9#4, 0xA#4, 0xB#4, 0xC#4, 0xD#4],
      [3#3, 4#3, 5#3, 6#3, 7#3].map (fun k => controlDecode op k z c) = [{}, {}, {}, {}, {}]) ∧
    [3#3, 4#3, 5#3, 6#3, 7#3].map (fun k => controlDecode 0x1#4 k z c) =
      [{ counterOut := true, loadMAR := true }, { ramOut := true, counterEnable := true, loadMAR := true },
        { ramOut := true, aIn := true }, {}, {}] ∧
    [3#3, 4#3, 5#3, 6#3, 7#3].map (fun k => controlDecode 0x2#4 k z c) =
      [{ counterOut := true, loadMAR := true }, { ramOut := true, counterEnable := true, loadMAR := true },
        { ramOut := true, bIn := true }, { aluOut := true, aIn := true }, {}] ∧
    [3#3, 4#3, 5#3, 6#3, 7#3].map (fun k => controlDecode 0x3#4 k z c) =
      [{ counterOut := true, loadMAR := true, subtract := Config.subSubtractSteps.step3 },
        { ramOut := true, counterEnable := true, loadMAR := true, subtract := Config.subSubtractSteps.step4 },
        { ramOut := true, bIn := true, subtract := Config.subSubtractSteps.step5 },
        { aluOut := true, aIn := true, subtract := true }, {}] ∧
    [3#3, 4#3, 5#3, 6#3, 7#3].map (fun k => controlDecode 0x4#4 k z c) =
      [{ counterOut := true, loadMAR := true }, { ramOut := true, counterEnable := true, loadMAR := true },
        { aOut := true, ramIn := true }, {}, {}] ∧
    [3#3, 4#3, 5#3, 6#3, 7#3].map (fun k => controlDecode 0x5#4 k z c) =
      [{ counterOut := true, loadMAR := true }, { ramOut := true, counterEnable := true, aIn := true }, {}, {}, {}] ∧
    [3#3, 4#3, 5#3, 6#3, 7#3].map (fun k => controlDecode 0x6#4 k z c) =
      [{ counterOut := true, loadMAR := true }, { ramOut := true, jump := true }, {}, {}, {}] ∧
    [3#3, 4#3, 5#3, 6#3, 7#3].map (fun k => controlDecode 0x7#4 k z c) =
      [{ counterOut := true, loadMAR := true }, { ramOut := true, jump := c, counterEnable := !c }, {}, {}, {}] ∧
    [3#3, 4#3, 5#3, 6#3, 7#3].map (fun k => controlDecode 0x8#4 k z c) =
      [{ counterOut := true, loadMAR := true }, { ramOut := true, jump := z, counterEnable := !z }, {}, {}, {}] ∧
    [3#3, 4#3, 5#3, 6#3, 7#3].map (fun k => controlDecode 0xE#4 k z c) =
      [{ aOut := true, outIn := true }, {}, {}, {}, {}] ∧
    [3#3, 4#3, 5#3, 6#3, 7#3].map (fun k => controlDecode 0xF#4 k z c) = [{ halt := true }, {}, {}, {}, {}]

/-- R112: the (opcode, step) pairs at which the decoder returns the empty set are those listed there, and the tick then
changes only SIGNALS and STEP. That SIGNALS becomes the empty set is the spec's decision D20 (log 9). -/
def Obligations.IdleStepsChangeOnlySignalsAndStep : Prop :=
  (∀ (op : Nibble) (k : StepNo) (z c : Bool), controlDecode op k z c = {} ↔
    (3 ≤ k.toNat ∧ op ∈ [0x0#4, 0x9#4, 0xA#4, 0xB#4, 0xC#4, 0xD#4]) ∨
    (4 ≤ k.toNat ∧ op ∈ [0xE#4, 0xF#4]) ∨
    (5 ≤ k.toNat ∧ op ∈ [0x5#4, 0x6#4, 0x7#4, 0x8#4]) ∨
    (6 ≤ k.toNat ∧ op ∈ [0x1#4, 0x4#4]) ∨
    (7 ≤ k.toNat ∧ op ∈ [0x2#4, 0x3#4])) ∧
  ∀ s : State, s.halted = false → controlDecode s.ir s.stepCtr s.zero s.carry = {} →
    tick s = { s with signals := {}, stepCtr := s.stepCtr + 1#3 }

/-- R109: every cell of the decoder's table contains at most one bus producer. -/
def Obligations.AtMostOneProducerPerTick : Prop :=
  ∀ (op : Nibble) (k : StepNo) (z c : Bool),
    [Signal.counterOut, .ramOut, .irOut, .aOut, .aluOut].countP (asserts (controlDecode op k z c)) ≤ 1

/-- The decoder returns the fifteen sets of `decoderImage` and, but for the open Subtract on SUB's steps 3 to 5 (D4, log 5), no
other; each of them is returned for some opcode, step and flags; Subtract comes with SUB alone and always at its step 6; and
every consumer comes with exactly one producer (R115, derived there; R18). -/
def Obligations.DecoderImageIsFifteenSets : Prop :=
  decoderImage.length = 15 ∧ decoderImage.Nodup ∧
  (∀ g ∈ decoderImage, ∃ (op : Nibble) (k : StepNo) (z c : Bool), controlDecode op k z c = g) ∧
  ∀ (op : Nibble) (k : StepNo) (z c : Bool),
    let g := controlDecode op k z c
    (g ∈ decoderImage ∨
      op = 0x3#4 ∧ 3 ≤ k.toNat ∧ k.toNat ≤ 5 ∧ g.subtract = true ∧ withSubtract false g ∈ decoderImage) ∧
    (g.subtract = true → op = 0x3#4 ∧ 3 ≤ k.toNat ∧ k.toNat ≤ 6) ∧
    (op = 0x3#4 → k = 6#3 → g.subtract = true) ∧
    (1 ≤ consumerCount g → producerCount g = 1)

/-- R110: the fetch steps are the same for all opcodes and flags, and the net effect of the three ticks. -/
def Obligations.FetchReadsTheOpcodeAtPc : Prop :=
  (∀ (op : Nibble) (z c : Bool),
    controlDecode op 0#3 z c = { counterOut := true, loadMAR := true } ∧
    controlDecode op 1#3 z c = { counterEnable := true } ∧
    controlDecode op 2#3 z c = { ramOut := true, irIn := true }) ∧
  ∀ s : State, s.stepCtr = 0#3 → s.halted = false →
    tickN 3 s = { s with
      mar := s.pc, pc := s.pc + 1#4, ir := memRead s.ram s.pc, bus := memRead s.ram s.pc, stepCtr := 3#3
      signals := { ramOut := true, irIn := true } }

/-- One tick, element by element, from the state the tick found: `v` is the settled bus, `g` the decoder's output (R90). That
SIGNALS becomes `g` on an idle tick too is the spec's decision D20 (log 9), and that STEP advances on the tick that asserts
Halt its decision D3 (log 4). -/
def Obligations.TickChangesEachElementAsTheSpecSays : Prop :=
  (∀ s : State, s.halted = true → tick s = s) ∧
  ∀ s : State, s.halted = false →
    let g := controlDecode s.ir s.stepCtr s.zero s.carry
    let o := alu s.a s.b g.subtract
    let v := if g.counterOut then s.pc else if g.ramOut then memRead s.ram s.mar else if g.irOut then s.ir
      else if g.aOut then s.a else if g.aluOut then o.result else s.bus
    tick s = {
      bus := v
      aluResult := if g.aluOut then o.result else s.aluResult
      zero := if g.aluOut then o.zero else s.zero
      carry := if g.aluOut then o.carry else s.carry
      mar := if g.loadMAR then v else s.mar
      ir := if g.irIn then v else s.ir
      a := if g.aIn then v else s.a
      b := if g.bIn then v else s.b
      out := if g.outIn then v else s.out
      ram := if g.ramIn then memWrite s.ram s.mar v else s.ram
      pc := (if g.jump then v else s.pc) + (if g.counterEnable then 1#4 else 0#4)
      halted := g.halt
      signals := g
      stepCtr := s.stepCtr + 1#3 }

/-- R98: Subtract is the ALU's `sub` on a tick with AluOut, changes nothing but SIGNALS on any other tick, and is asserted
only by SUB. -/
def Obligations.SubtractOnlySelectsTheAluOperation : Prop :=
  (∀ (g : SignalSet) (b : Bool) (s : State), g.aluOut = false → applyPhases (withSubtract b g) s = applyPhases g s) ∧
  (∀ s : State, s.halted = false → (tickSignals s).aluOut = true → (tick s).aluResult =
    if (tickSignals s).subtract then BitVec.ofNat 4 (s.a.toNat + 16 - s.b.toNat) else BitVec.ofNat 4 (s.a.toNat + s.b.toNat)) ∧
  ∀ (op : Nibble) (k : StepNo) (z c : Bool), (controlDecode op k z c).subtract = true → op = 0x3#4

/-- R97: AluOut's effect, the ticks that assert it, and that no other event writes the flags or the last result, but Reset,
which clears the flags (R19). -/
def Obligations.FlagsChangeOnlyOnAluOut : Prop :=
  (∀ (op : Nibble) (k : StepNo) (z c : Bool), ((controlDecode op k z c).aluOut = true ↔ k = 6#3 ∧ (op = 0x2#4 ∨ op = 0x3#4)) ∧
    ((controlDecode op k z c).aluOut = true → (controlDecode op k z c).aIn = true)) ∧
  (∀ s : State, s.halted = false → (tickSignals s).aluOut = true →
    let o := alu s.a s.b (tickSignals s).subtract
    (tick s).aluResult = o.result ∧ (tick s).zero = o.zero ∧ (tick s).carry = o.carry ∧ (tick s).bus = o.result ∧
      (tick s).a = o.result) ∧
  ∀ (e : Event) (s t : State), applyEvent e s = .next t →
    (e = .reset → t.zero = false ∧ t.carry = false) ∧
    (e ≠ .reset → e ≠ .tick ∨ s.halted = true ∨ (tickSignals s).aluOut = false →
      t.aluResult = s.aluResult ∧ t.zero = s.zero ∧ t.carry = s.carry)

/-- R93, R94, R96: what each asserted bus producer does, that it changes nothing else, and where it is asserted. -/
def Obligations.ProducersDriveTheBus : Prop :=
  (∀ s : State,
    applyProducers { counterOut := true } s = { s with bus := s.pc } ∧
    applyProducers { ramOut := true } s = { s with bus := memRead s.ram s.mar } ∧
    applyProducers { aOut := true } s = { s with bus := s.a } ∧
    applyPhases { ramOut := true, loadMAR := true } s =
      { s with bus := memRead s.ram s.mar, mar := memRead s.ram s.mar }) ∧
  ∀ (op : Nibble) (k : StepNo) (z c : Bool),
    let g := controlDecode op k z c
    (g.counterOut = true ↔ k = 0#3 ∨ (k = 3#3 ∧ takesOperand op = true)) ∧
    (g.counterOut = true → g.loadMAR = true) ∧
    (g.ramOut = true ↔ k = 2#3 ∨ (k = 4#3 ∧ takesOperand op = true) ∨ (k = 5#3 ∧ op ∈ [0x1#4, 0x2#4, 0x3#4])) ∧
    (g.aOut = true ↔ (k = 3#3 ∧ op = 0xE#4) ∨ (k = 5#3 ∧ op = 0x4#4)) ∧
    (g.aOut = true → k = 3#3 → g.outIn = true) ∧ (g.aOut = true → k = 5#3 → g.ramIn = true)

/-- R99 to R105: what each bus consumer does with the settled bus, that it changes nothing else, where it is asserted and
with which producer; and that IR changes at step 2 and by Reset only. -/
def Obligations.ConsumersTakeTheBus : Prop :=
  (∀ s : State,
    applyConsumers { loadMAR := true } s = { s with mar := s.bus } ∧
    applyConsumers { irIn := true } s = { s with ir := s.bus } ∧
    applyConsumers { aIn := true } s = { s with a := s.bus } ∧
    applyConsumers { bIn := true } s = { s with b := s.bus } ∧
    applyConsumers { outIn := true } s = { s with out := s.bus } ∧
    applyConsumers { ramIn := true } s = { s with ram := memWrite s.ram s.mar s.bus } ∧
    applyConsumers { jump := true } s = { s with pc := s.bus } ∧
    applyPhases { ramOut := true, loadMAR := true } s = { s with bus := memRead s.ram s.mar, mar := memRead s.ram s.mar } ∧
    (applyPhases { ramOut := true, jump := true, counterEnable := true } s).pc = memRead s.ram s.mar + 1#4) ∧
  (∀ (e : Event) (s t : State), applyEvent e s = .next t →
    t.ir = if e = .reset then 0#4
      else if e = .tick ∧ s.halted = false ∧ s.stepCtr = 2#3 then memRead s.ram s.mar else s.ir) ∧
  ∀ (op : Nibble) (k : StepNo) (z c : Bool),
    let g := controlDecode op k z c
    (g.loadMAR = true ↔ k = 0#3 ∨ (k = 3#3 ∧ takesOperand op = true) ∨ (k = 4#3 ∧ op ∈ [0x1#4, 0x2#4, 0x3#4, 0x4#4])) ∧
    (g.loadMAR = true → k = 4#3 → g.ramOut = true) ∧ (g.loadMAR = true → k ≠ 4#3 → g.counterOut = true) ∧
    (g.irIn = true ↔ k = 2#3) ∧ (g.irIn = true → g.ramOut = true) ∧
    (g.aIn = true ↔ (k = 4#3 ∧ op = 0x5#4) ∨ (k = 5#3 ∧ op = 0x1#4) ∨ (k = 6#3 ∧ op ∈ [0x2#4, 0x3#4])) ∧
    (g.bIn = true ↔ k = 5#3 ∧ op ∈ [0x2#4, 0x3#4]) ∧ (g.bIn = true → g.ramOut = true) ∧
    (g.outIn = true ↔ k = 3#3 ∧ op = 0xE#4) ∧ (g.outIn = true → g.aOut = true) ∧
    (g.ramIn = true ↔ k = 5#3 ∧ op = 0x4#4) ∧ (g.ramIn = true → g.aOut = true ∧ g.loadMAR = false) ∧
    (g.jump = true ↔ k = 4#3 ∧ (op = 0x6#4 ∨ (op = 0x7#4 ∧ c = true) ∨ (op = 0x8#4 ∧ z = true))) ∧
    (g.jump = true → g.ramOut = true ∧ g.counterEnable = false)

/-- R106: CounterEnable increments PC mod 16, is asserted where the rule says, is the only increment of PC, and does not
disturb the operand read it shares the tick of, whose address MAR got at step 3. -/
def Obligations.CounterEnableIncrementsPc : Prop :=
  (∀ s : State, applyLast { counterEnable := true } s = { s with pc := s.pc + 1#4 } ∧
    (s.pc + 1#4).toNat = (s.pc.toNat + 1) % 16 ∧
    applyPhases { ramOut := true, counterEnable := true } s = { s with bus := memRead s.ram s.mar, pc := s.pc + 1#4 }) ∧
  (∀ (op : Nibble) (k : StepNo) (z c : Bool), (controlDecode op k z c).counterEnable = true ↔
    k = 1#3 ∨ (k = 4#3 ∧ (op ∈ [0x5#4, 0x1#4, 0x4#4, 0x2#4, 0x3#4] ∨ (op = 0x7#4 ∧ c = false) ∨ (op = 0x8#4 ∧ z = false)))) ∧
  (∀ (op : Nibble) (z c : Bool), (controlDecode op 4#3 z c).counterEnable = true → (controlDecode op 4#3 z c).ramOut = true) ∧
  (∀ s : State, s.halted = false → s.stepCtr = 3#3 → takesOperand s.ir = true → (tick s).mar = s.pc) ∧
  ∀ s : State, s.halted = false → (tickSignals s).counterEnable = false → (tickSignals s).jump = false → (tick s).pc = s.pc

/-- HALTED is set by the Halt signal of HLT's step 3 alone and cleared by Reset alone; while it is true a tick does nothing,
and Reset and the host's RAM operations still act; after reset it is false (R22). What Reset leaves in BUS, ALU.result and
SIGNALS is the spec's decision D2 (log 3), and that the host may act on a halted machine its decision D15 (log 10). -/
def Obligations.HaltedIsSetByHltAndClearedByReset : Prop :=
  (∀ (e : Event) (s t : State), applyEvent e s = .next t →
    (s.halted = false → (t.halted = true ↔ e = .tick ∧ s.ir = 0xF#4 ∧ s.stepCtr = 3#3)) ∧
    (s.halted = true → (t.halted = false ↔ e = .reset)) ∧
    (s.halted = true → e = .tick → t = s)) ∧
  (∀ (s : State) (addr val : Int) (words : List Int), s.halted = true → words.length ≤ 16 →
    applyEvent (.ramWrite addr val) s = .next { s with ram := memWrite s.ram (mask4 addr) (mask4 val) } ∧
    applyEvent (.ramLoadProgram words) s = .next { s with ram := loadFrom 0 words s.ram } ∧
    applyEvent (.ramRead addr) s = .next s ∧
    applyEvent .reset s = .next { State.reset with ram := s.ram }) ∧
  State.reset.halted = false

/-- R21 and R113: STEP moves to its successor mod 8 at every tick taken while not halted, whatever the opcode, and by no
other event but Reset; every instruction but HLT passes through all eight values, and HLT stops after its fourth tick, with
STEP 4 by the spec's decision D3 (log 4). -/
def Obligations.StepCounterAdvancesEveryTick : Prop :=
  (∀ (e : Event) (s t : State), applyEvent e s = .next t →
    t.stepCtr = if e = .reset then 0#3 else if e = .tick ∧ s.halted = false then s.stepCtr + 1#3 else s.stepCtr) ∧
  (∀ s : State, AtBoundary s → memRead s.ram s.pc ≠ 0xF#4 →
    ∀ n ≤ 8, (tickN n s).stepCtr.toNat = n % 8 ∧ (tickN n s).halted = false) ∧
  (∀ s : State, AtBoundary s → memRead s.ram s.pc = 0xF#4 →
    ∀ n ≤ 4, (tickN n s).stepCtr.toNat = n ∧ ((tickN n s).halted = true ↔ n = 4)) ∧
  State.reset.stepCtr = 0#3

/-- R114: no tick changes a halted machine, whatever the state; the tick that asserts Halt runs to its end (the spec's
decision D3, log 4); and every other event acts on a halted machine as on one that is not. -/
def Obligations.HaltedTicksChangeNothing : Prop :=
  (∀ (n : Nat) (s : State), s.halted = true → tickN n s = s) ∧
  (∀ s : State, s.halted = false → s.ir = 0xF#4 → s.stepCtr = 3#3 →
    tick s = { s with halted := true, signals := { halt := true }, stepCtr := 4#3 }) ∧
  ∀ (e : Event) (s t : State), e ≠ .tick → s.halted = true → applyEvent e s = .next t →
    applyEvent e { s with halted := false } = .next { t with halted := false }

/-- R173: the taken and the not taken path of step 4 of JC and JZ. Taken: PC replaced and not incremented; not taken: PC
incremented, MAR left; in all other state but SIGNALS they agree. -/
def Obligations.TakenAndNotTakenPathsDiffer : Prop :=
  ∀ s : State, s.halted = false → s.stepCtr = 4#3 →
    (s.ir = 0x7#4 ∧ s.carry = true ∨ s.ir = 0x8#4 ∧ s.zero = true →
      tick s = { s with bus := memRead s.ram s.mar, pc := memRead s.ram s.mar, stepCtr := 5#3,
                        signals := { ramOut := true, jump := true } }) ∧
    (s.ir = 0x7#4 ∧ s.carry = false ∨ s.ir = 0x8#4 ∧ s.zero = false →
      tick s = { s with bus := memRead s.ram s.mar, pc := s.pc + 1#4, stepCtr := 5#3,
                        signals := { ramOut := true, counterEnable := true } })

/-- Which tick writes each register, and with what (R12 to R17 with R111; R13 and the sites of R111's G column are derived
by the spec). -/
def Obligations.RegistersChangeOnlyAtTheirWriteSites : Prop :=
  ∀ s : State, s.halted = false →
    (tick s).a = (if s.stepCtr = 4#3 ∧ s.ir = 0x5#4 ∨ s.stepCtr = 5#3 ∧ s.ir = 0x1#4 then memRead s.ram s.mar
      else if s.stepCtr = 6#3 ∧ s.ir = 0x2#4 then s.a + s.b
      else if s.stepCtr = 6#3 ∧ s.ir = 0x3#4 then s.a - s.b else s.a) ∧
    (tick s).b = (if s.stepCtr = 5#3 ∧ (s.ir = 0x2#4 ∨ s.ir = 0x3#4) then memRead s.ram s.mar else s.b) ∧
    (tick s).out = (if s.stepCtr = 3#3 ∧ s.ir = 0xE#4 then s.a else s.out) ∧
    (tick s).ir = (if s.stepCtr = 2#3 then memRead s.ram s.mar else s.ir) ∧
    (tick s).mar = (if s.stepCtr = 0#3 ∨ s.stepCtr = 3#3 ∧ takesOperand s.ir = true then s.pc
      else if s.stepCtr = 4#3 ∧ s.ir ∈ [0x1#4, 0x2#4, 0x3#4, 0x4#4] then memRead s.ram s.mar else s.mar) ∧
    (tick s).pc = (if s.stepCtr = 1#3 then s.pc + 1#4
      else if s.stepCtr = 4#3 ∧ (s.ir = 0x6#4 ∨ s.ir = 0x7#4 ∧ s.carry = true ∨ s.ir = 0x8#4 ∧ s.zero = true)
        then memRead s.ram s.mar
      else if s.stepCtr = 4#3 ∧ takesOperand s.ir = true then s.pc + 1#4 else s.pc) ∧
    (tick s).ram = (if s.stepCtr = 5#3 ∧ s.ir = 0x4#4 then memWrite s.ram s.mar s.a else s.ram)

/-- R17: OUT is written at step 3 of the OUT instruction only, with A, and by Reset with 0; the host reads it; and no event
carries its value into any other element. -/
def Obligations.OutIsWrittenOnlyAndOnlyByOut : Prop :=
  (∀ (e : Event) (s t : State), applyEvent e s = .next t →
    t.out = if e = .reset then 0#4
      else if e = .tick ∧ s.halted = false ∧ s.stepCtr = 3#3 ∧ s.ir = 0xE#4 then s.a else s.out) ∧
  ∀ (e : Event) (s t : State) (v : Nibble), applyEvent e s = .next t →
    (hostView s).out = s.out ∧ ∃ w, applyEvent e { s with out := v } = .next { t with out := w }

/-- The ALU's last result, BUS and SIGNALS influence no tick: two states that agree on all else agree on it for ever, and the
host's accessors then answer the same if SIGNALS agreed at the start (R18, R20, R23, R27, R28, derived there). -/
def Obligations.HiddenStateIsNeverObserved : Prop :=
  ∀ (n : Nat) (s s' : State), tickView s = tickView s' →
    tickView (tickN n s) = tickView (tickN n s') ∧
    (s.signals = s'.signals → hostView (tickN n s) = hostView (tickN n s'))

/-- At instruction boundaries MAR, IR, B and the hidden state are scratch: no run of any length carries them into PC, A, OUT,
the flags, HALTED or RAM (R13, R16, R28, R208, R209; R13 and R28 derived there). -/
def Obligations.ScratchStateNeverReachesTheProgram : Prop :=
  ∀ (n : Nat) (s s' : State), s.stepCtr = 0#3 ∨ s.halted = true → programView s = programView s' →
    ∃ t t', stepN n s = .next t ∧ stepN n s' = .next t' ∧ programView t = programView t'

/-- A signal set the decoder emits is never refused, and its application is that of the tick; a set with two producers, or
with LoadMAR and RamIn, is refused; every other set is applied by the three phases, given here element by element from the
state as it was, with `v` the settled bus, which without a producer is the value the bus holds (R116, the spec's decision D6;
log 7; IROut by D5, log 6). -/
def Obligations.OnlySetsOutsideTheTableAreRefused : Prop :=
  (∀ s : State, applySignalSet (tickSignals s) s = .next (applyPhases (tickSignals s) s)) ∧
  (∀ (g : SignalSet) (s : State), 2 ≤ producerCount g → applySignalSet g s = .refused .twoProducers) ∧
  (∀ (g : SignalSet) (s : State), producerCount g ≤ 1 → g.loadMAR = true → g.ramIn = true →
    applySignalSet g s = .refused .loadMarWithRamIn) ∧
  ∀ (g : SignalSet) (s : State), producerCount g ≤ 1 → g.loadMAR = false ∨ g.ramIn = false →
    let o := alu s.a s.b g.subtract
    let v := if g.counterOut then s.pc else if g.ramOut then memRead s.ram s.mar else if g.irOut then s.ir
      else if g.aOut then s.a else if g.aluOut then o.result else s.bus
    applySignalSet g s = .next (applyPhases g s) ∧
    applyPhases g s = { s with
      bus := v
      aluResult := if g.aluOut then o.result else s.aluResult
      zero := if g.aluOut then o.zero else s.zero
      carry := if g.aluOut then o.carry else s.carry
      mar := if g.loadMAR then v else s.mar
      ir := if g.irIn then v else s.ir
      a := if g.aIn then v else s.a
      b := if g.bIn then v else s.b
      out := if g.outIn then v else s.out
      ram := if g.ramIn then memWrite s.ram s.mar v else s.ram
      pc := (if g.jump then v else s.pc) + (if g.counterEnable then 1#4 else 0#4)
      halted := s.halted || g.halt }

/-! ### The ALU -/

/-- R150, R151: the result and the carry or borrow of both operations, on all 256 pairs of operands, and the zero flag. -/
def Obligations.AluComputesSumAndDifference : Prop :=
  ∀ a b : Nibble,
    (alu a b false).result.toNat = (a.toNat + b.toNat) % 16 ∧
    (alu a b false).carry = decide (a.toNat + b.toNat > 15) ∧
    (alu a b false).zero = decide ((alu a b false).result = 0#4) ∧
    (alu a b true).result.toNat = (a.toNat + 16 - b.toNat) % 16 ∧
    (alu a b true).result.toNat = (if a.toNat ≥ b.toNat then a.toNat - b.toNat else a.toNat + 16 - b.toNat) ∧
    (alu a b true).carry = decide (a.toNat < b.toNat) ∧
    (alu a b true).zero = decide ((alu a b true).result = 0#4)

/-- When both flags can be true, and that a difference is zero exactly for equal operands, without a borrow (R152, derived
there). -/
def Obligations.ZeroAndCarryTogetherOnlyAtSixteen : Prop :=
  ∀ a b : Nibble,
    ((alu a b false).zero = true ∧ (alu a b false).carry = true ↔ a.toNat + b.toNat = 16) ∧
    ((alu a b true).zero = true ↔ a = b) ∧
    ¬((alu a b true).zero = true ∧ (alu a b true).carry = true)

/-! ### Reset, memory and the host -/

/-- Reset sets every element but RAM to its reset value, from every state, halted or in the middle of an instruction (R30,
R200, R202; BUS, ALU.result and SIGNALS by the spec's decision D2, log 3). -/
def Obligations.ResetZeroesAllButRam : Prop :=
  ∀ s : State, applyEvent .reset s = .next
    { pc := 0#4, mar := 0#4, ir := 0#4, a := 0#4, b := 0#4, out := 0#4, bus := 0#4, zero := false, carry := false
      aluResult := 0#4, stepCtr := 0#3, halted := false, signals := {}, ram := s.ram }

/-- R201: Reset changes no cell, and what runs next is whatever image is in RAM now, from address 0. -/
def Obligations.ResetRestartsTheImageInRam : Prop :=
  ∀ s t : State, applyEvent .reset s = .next t →
    (∀ addr : Nibble, memRead t.ram addr = memRead s.ram addr) ∧
    step t = exec (decodePair (memRead s.ram 0x0#4) (memRead s.ram 0x1#4)) t

/-- A read after a write gives the value written, a write changes no other cell, an unwritten cell reads 0; and a tick reads
RAM only if RamOut is asserted, and writes it, at MAR and from the bus, only if RamIn is (R42). The canonical form, in the
hypotheses and kept by a write, is the model's own choice (log 11). -/
def Obligations.MemoryReturnsTheLastWrite : Prop :=
  (∀ addr : Nibble, memRead State.reset.ram addr = 0#4) ∧
  (∀ (m : Memory) (addr v : Nibble), m.wf = true →
    (memWrite m addr v).wf = true ∧ memRead (memWrite m addr v) addr = v ∧
    ∀ other, other ≠ addr → memRead (memWrite m addr v) other = memRead m other) ∧
  (∀ (s : State) (addr val : Int), s.ram.wf = true → memRead (ramWrite addr val s).ram (mask4 addr) = mask4 val) ∧
  (∀ (s t : State) (words : List Int), s.ram.wf = true → applyEvent (.ramLoadProgram words) s = .next t →
    ∀ i : Nat, ∀ v : Int, words[i]? = some v → memRead t.ram (BitVec.ofNat 4 i) = mask4 v) ∧
  (∀ s : State, s.halted = false → (tickSignals s).ramOut = true → (tick s).bus = memRead s.ram s.mar) ∧
  (∀ (s : State) (m : Memory), (tickSignals s).ramOut = false →
    tick { s with ram := m } = { tick s with ram := (tick { s with ram := m }).ram }) ∧
  ∀ s : State, (tick s).ram =
    if s.halted = false ∧ (tickSignals s).ramIn = true then memWrite s.ram s.mar (tick s).bus else s.ram

/-- The model's canonical form (log 11): memories that read the same everywhere are the same data. -/
def Obligations.EqualMemoriesAreEqualData : Prop :=
  ∀ m m' : Memory, m.wf = true → m'.wf = true → (∀ addr : Nibble, memRead m addr = memRead m' addr) → m = m'

/-- RamLoadProgram writes its values from address 0 upward, leaves the cells beyond them and everything but RAM, and is
refused for more than 16 values (R46; the refusal is the spec's decision D7, log 8). -/
def Obligations.LoadProgramWritesFromZero : Prop :=
  (∀ (words : List Int) (s : State), words.length ≤ 16 → s.ram.wf = true →
    ∃ t, applyEvent (.ramLoadProgram words) s = .next t ∧ t = { s with ram := t.ram } ∧ t.ram.wf = true ∧
      (∀ (i : Nat) (v : Int), words[i]? = some v → memRead t.ram (BitVec.ofNat 4 i) = BitVec.ofInt 4 v) ∧
      ∀ addr : Nibble, words.length ≤ addr.toNat → memRead t.ram addr = memRead s.ram addr) ∧
  ∀ (words : List Int) (s : State), 16 < words.length → applyEvent (.ramLoadProgram words) s = .refused .programTooLong

/-- RamWrite masks both arguments to 4 bits and changes that cell and nothing else; RamRead changes nothing; both act in every
state (R45; in which states is the spec's decision D15, log 10). -/
def Obligations.RamWriteChangesOneCell : Prop :=
  ∀ (addr val : Int) (s : State), s.ram.wf = true →
    applyEvent (.ramRead addr) s = .next s ∧
    ∃ t, applyEvent (.ramWrite addr val) s = .next t ∧ t = { s with ram := t.ram } ∧
      ((ramRead addr t).toNat : Int) = val % 16 ∧
      ∀ other : Int, other % 16 ≠ addr % 16 → ramRead other t = ramRead other s

/-- A value `v` that the host writes to cell `a` between two ticks, with RamWrite or RamLoadProgram, stands there after any
number of ticks none of which asserts RamIn with MAR at that cell, and each tick that then reads the cell puts `v` on the bus.
Neither host write can change the opcode of the instruction under way once step 2 has passed (R56, derived there; that the
host may write at any point of a cycle is the spec's decision D15, log 10). -/
def Obligations.HostWritesAreSeenByLaterReads : Prop :=
  (∀ (n : Nat) (e : Event) (s u : State) (a v : Nibble), s.ram.wf = true → applyEvent e s = .next u → hostWrites e a v →
    (∀ k < n, ¬((tickN k u).halted = false ∧ (tickSignals (tickN k u)).ramIn = true ∧ (tickN k u).mar = a)) →
      memRead (tickN n u).ram a = v ∧
      ((tickN n u).halted = false → (tickSignals (tickN n u)).ramOut = true → (tickN n u).mar = a →
        (tickN (n + 1) u).bus = v)) ∧
  ∀ (n : Nat) (e : Event) (s u : State) (a v : Nibble), applyEvent e s = .next u → hostWrites e a v →
    3 ≤ s.stepCtr.toNat → s.stepCtr.toNat + n ≤ 8 → (tickN n u).ir = s.ir

/-- A machine powered on and stepped without loading anything executes NOPs for ever, PC counting 0 to 15 and round again
(R203, derived there; the power-on values by the spec's decision D1, log 2). -/
def Obligations.PowerOnIdlesThroughMemory : Prop :=
  ∀ n : Nat, stepN n State.reset =
    .next { State.reset with pc := BitVec.ofNat 4 n, mar := BitVec.ofNat 4 (n - 1) }

/-! ### The instructions, each for every state -/

/-- NOP and the five reserved opcodes: PC moves on by one, and nothing else but the side state changes; the reserved ones
leave their own value in IR and BUS (net effects of R130, R133, derived per R9). -/
def Obligations.NopAndReservedOnlyMoveOn : Prop :=
  ∀ s : State,
    exec .nop s = .next { s with pc := s.pc + 1#4, mar := s.pc, ir := 0x0#4, bus := 0x0#4, signals := {}, stepCtr := 0#3 } ∧
    exec .rsv9 s = .next { s with pc := s.pc + 1#4, mar := s.pc, ir := 0x9#4, bus := 0x9#4, signals := {}, stepCtr := 0#3 } ∧
    exec .rsvA s = .next { s with pc := s.pc + 1#4, mar := s.pc, ir := 0xA#4, bus := 0xA#4, signals := {}, stepCtr := 0#3 } ∧
    exec .rsvB s = .next { s with pc := s.pc + 1#4, mar := s.pc, ir := 0xB#4, bus := 0xB#4, signals := {}, stepCtr := 0#3 } ∧
    exec .rsvC s = .next { s with pc := s.pc + 1#4, mar := s.pc, ir := 0xC#4, bus := 0xC#4, signals := {}, stepCtr := 0#3 } ∧
    exec .rsvD s = .next { s with pc := s.pc + 1#4, mar := s.pc, ir := 0xD#4, bus := 0xD#4, signals := {}, stepCtr := 0#3 }

/-- OUT copies A to OUT (net effect of R131, derived per R9). -/
def Obligations.OutCopiesTheAccumulator : Prop :=
  ∀ s : State, exec .out s =
    .next { s with out := s.a, pc := s.pc + 1#4, mar := s.pc, ir := 0xE#4, bus := s.a, signals := {}, stepCtr := 0#3 }

/-- HLT halts, with PC one past it and STEP at 4 (net effect of R132, derived per R9; STEP by the spec's decision D3, log 4). -/
def Obligations.HltHaltsPastItself : Prop :=
  ∀ s : State, exec .hlt s =
    .next { s with halted := true, pc := s.pc + 1#4, mar := s.pc, ir := 0xF#4, bus := 0xF#4, signals := { halt := true },
                   stepCtr := 4#3 }

/-- LDI loads its operand into A and leaves both flags, also for 0 (net effect of R141, derived per R9). -/
def Obligations.LdiLoadsTheImmediate : Prop :=
  ∀ (s : State) (q : Nibble), exec (.ldi q) s =
    .next { s with a := q, pc := s.pc + 2#4, mar := s.pc + 1#4, ir := 0x5#4, bus := q, signals := {}, stepCtr := 0#3 }

/-- LDA loads the addressed cell into A and leaves both flags (net effect of R142, derived per R9). -/
def Obligations.LdaLoadsTheCell : Prop :=
  ∀ (s : State) (q : Nibble), exec (.lda q) s =
    .next { s with a := memRead s.ram q, pc := s.pc + 2#4, mar := q, ir := 0x1#4, bus := memRead s.ram q, signals := {}
                   stepCtr := 0#3 }

/-- STA stores A to the addressed cell: that cell reads A after it, every other cell reads as before, and nothing else but PC
and the side state changes (net effect of R143, derived per R9). -/
def Obligations.StaStoresTheAccumulator : Prop :=
  ∀ (s : State) (q : Nibble), s.ram.wf = true →
    ∃ t, exec (.sta q) s = .next t ∧
      t = { s with ram := t.ram, pc := s.pc + 2#4, mar := q, ir := 0x4#4, bus := s.a, signals := {}, stepCtr := 0#3 } ∧
      memRead t.ram q = s.a ∧ (∀ addr : Nibble, addr ≠ q → memRead t.ram addr = memRead s.ram addr) ∧ t.ram.wf = true

/-- ADD: B takes the cell, A the sum mod 16, both flags and the last result from this addition alone (net effect of R155,
derived per R9). -/
def Obligations.AddAddsTheCell : Prop :=
  ∀ (s : State) (q : Nibble),
    let m := memRead s.ram q
    exec (.add q) s =
      .next { s with
        b := m, a := s.a + m, aluResult := s.a + m, bus := s.a + m
        carry := decide (s.a.toNat + m.toNat > 15), zero := decide ((s.a.toNat + m.toNat) % 16 = 0)
        pc := s.pc + 2#4, mar := q, ir := 0x2#4, signals := {}, stepCtr := 0#3 }

/-- SUB: B takes the cell, A the difference mod 16, carry the borrow, zero for equal operands (net effect of R156, derived per
R9). It does not depend on the open parameter (D4, log 5). -/
def Obligations.SubSubtractsTheCell : Prop :=
  ∀ (s : State) (q : Nibble),
    let m := memRead s.ram q
    exec (.sub q) s =
      .next { s with
        b := m, a := s.a - m, aluResult := s.a - m, bus := s.a - m
        carry := decide (s.a.toNat < m.toNat), zero := decide (s.a = m)
        pc := s.pc + 2#4, mar := q, ir := 0x3#4, signals := {}, stepCtr := 0#3 }

/-- JMP: PC becomes the operand, with nothing added (net effect of R170, derived per R9). -/
def Obligations.JmpReplacesPc : Prop :=
  ∀ (s : State) (q : Nibble), exec (.jmp q) s =
    .next { s with pc := q, mar := s.pc + 1#4, ir := 0x6#4, bus := q, signals := {}, stepCtr := 0#3 }

/-- JC: taken exactly if the carry flag is set; not taken, PC passes the operand; either way MAR is the operand's address and
no flag is written (net effect of R171, derived per R9). -/
def Obligations.JcJumpsOnCarry : Prop :=
  ∀ (s : State) (q : Nibble), exec (.jc q) s =
    .next { s with pc := if s.carry then q else s.pc + 2#4, mar := s.pc + 1#4, ir := 0x7#4, bus := q, signals := {}
                   stepCtr := 0#3 }

/-- JZ: as JC, on the zero flag (net effect of R172, derived per R9). -/
def Obligations.JzJumpsOnZero : Prop :=
  ∀ (s : State) (q : Nibble), exec (.jz q) s =
    .next { s with pc := if s.zero then q else s.pc + 2#4, mar := s.pc + 1#4, ir := 0x8#4, bus := q, signals := {}
                   stepCtr := 0#3 }

/-! ### Rules over all instructions -/

/-- What each instruction leaves unchanged, over the whole instruction set: A but by LDI, LDA, ADD, SUB; B, both flags and the
last result but by ADD, SUB; OUT but by OUT; HALTED but by HLT; every cell but the one STA addresses (R15 to R17, R19, R22,
R52, R207, R208; the net effects derived per R9). -/
def Obligations.InstructionsLeaveTheRestUnchanged : Prop :=
  ∀ (i : Instr) (s t : State), exec i s = .next t →
    (t.a = s.a ∨ ∃ q, i = .ldi q ∨ i = .lda q ∨ i = .add q ∨ i = .sub q) ∧
    ((t.b = s.b ∧ t.zero = s.zero ∧ t.carry = s.carry ∧ t.aluResult = s.aluResult) ∨ ∃ q, i = .add q ∨ i = .sub q) ∧
    (t.out = s.out ∨ i = .out) ∧
    (t.halted = s.halted ∨ i = .hlt) ∧
    ∀ addr : Nibble, i ≠ .sta addr → memRead t.ram addr = memRead s.ram addr

/-- PC after an instruction: past its one or two nibbles, or at the operand for JMP, for JC with the carry flag and for JZ with
the zero flag; additions wrap from 15 to 0, and an opcode at 15 has its operand at 0 (R12, R51, R64, R212; R51, R64 and R212
derived there). -/
def Obligations.PcMovesPastTheInstructionOrToItsTarget : Prop :=
  ∀ s t : State, AtBoundary s → step s = .next t →
    let op := memRead s.ram s.pc
    let q := memRead s.ram (s.pc + 1#4)
    t.pc = if takesOperand op = false then s.pc + 1#4
      else if op = 0x6#4 ∨ op = 0x7#4 ∧ s.carry = true ∨ op = 0x8#4 ∧ s.zero = true then q
      else s.pc + 2#4

/-- The run of a machine ends with the step of an HLT and with no other: a step from an instruction boundary leaves the machine
halted exactly if the cell at PC holds 0xF, and otherwise at an instruction boundary again (R219, the spec's decision D12;
R119, derived there). -/
def Obligations.RunsEndOnlyAtHlt : Prop :=
  ∀ s t : State, AtBoundary s → step s = .next t →
    (RunEnded t ↔ memRead s.ram s.pc = 0xF#4) ∧ (AtBoundary t ↔ memRead s.ram s.pc ≠ 0xF#4)

/-- Self-modifying code: a store is seen by the very next fetch, of the opcode and of the operand alike, and a store into the
storing instruction's own two cells does not change the execution under way (R55, R143, R210). The step after it runs what
the two cells at PC hold then: A where the store hit one of them, else the old nibble. -/
def Obligations.StoresAreSeenByTheNextFetch : Prop :=
  ∀ s t : State, s.ram.wf = true → AtBoundary s → memRead s.ram s.pc = 0x4#4 → step s = .next t →
    let q := memRead s.ram (s.pc + 1#4)
    t.pc = s.pc + 2#4 ∧ memRead t.ram q = s.a ∧
    step t = exec (decodePair (if q = s.pc + 2#4 then s.a else memRead s.ram (s.pc + 2#4))
      (if q = s.pc + 3#4 then s.a else memRead s.ram (s.pc + 3#4))) t ∧
    ∀ addr : Nibble, addr ≠ q → memRead t.ram addr = memRead s.ram addr

/-! ### The assembler -/

/-- The assembler's output is always exactly 16 entries, so the host's load never refuses it (R46, R78; log 17). -/
def Obligations.AssembledImagesHaveSixteenNibbles : Prop :=
  ∀ (lines : List AsmLine) (out : Assembly), assemble lines = .ok out →
    out.image.length = 16 ∧
    ∀ s : State, ∃ t, applyEvent (.ramLoadProgram (out.image.map fun v => (v.toNat : Int))) s = .next t
end

