-- ==== Sys2Proof/Laws/ControlUnit.lean ====
section
/-!
SUPPORT. The decoder's table, one lemma for each step and for each opcode, true by rfl (spec/40_control_unit.md R110, R111).
-/

namespace Sys2Proof.Machine

@[simp] theorem controlDecode_at0 (op : Nibble) (z c : Bool) : controlDecode op 0#3 z c = sigAddressByPc := rfl
@[simp] theorem controlDecode_at1 (op : Nibble) (z c : Bool) : controlDecode op 1#3 z c = sigCount := rfl
@[simp] theorem controlDecode_at2 (op : Nibble) (z c : Bool) : controlDecode op 2#3 z c = sigFetch := rfl
@[simp] theorem controlDecode_at3 (op : Nibble) (z c : Bool) : controlDecode op 3#3 z c = (executeRow op z c).step3 := rfl
@[simp] theorem controlDecode_at4 (op : Nibble) (z c : Bool) : controlDecode op 4#3 z c = (executeRow op z c).step4 := rfl
@[simp] theorem controlDecode_at5 (op : Nibble) (z c : Bool) : controlDecode op 5#3 z c = (executeRow op z c).step5 := rfl
@[simp] theorem controlDecode_at6 (op : Nibble) (z c : Bool) : controlDecode op 6#3 z c = (executeRow op z c).step6 := rfl
@[simp] theorem controlDecode_at7 (op : Nibble) (z c : Bool) : controlDecode op 7#3 z c = (executeRow op z c).step7 := rfl

@[simp] theorem executeRowNop (z c : Bool) : executeRow 0x0#4 z c =
    {} := rfl
@[simp] theorem executeRowLda (z c : Bool) : executeRow 0x1#4 z c =
    { step3 := sigAddressByPc, step4 := sigOperandToMar, step5 := sigCellToA } := rfl
@[simp] theorem executeRowAdd (z c : Bool) : executeRow 0x2#4 z c =
    { step3 := sigAddressByPc, step4 := sigOperandToMar, step5 := sigCellToB, step6 := sigAluToA } := rfl
@[simp] theorem executeRowSub (z c : Bool) : executeRow 0x3#4 z c =
    { step3 := withSubtract Config.subSubtractSteps.step3 sigAddressByPc
      step4 := withSubtract Config.subSubtractSteps.step4 sigOperandToMar
      step5 := withSubtract Config.subSubtractSteps.step5 sigCellToB
      step6 := withSubtract true sigAluToA } := rfl
@[simp] theorem executeRowSta (z c : Bool) : executeRow 0x4#4 z c =
    { step3 := sigAddressByPc, step4 := sigOperandToMar, step5 := sigAToCell } := rfl
@[simp] theorem executeRowLdi (z c : Bool) : executeRow 0x5#4 z c =
    { step3 := sigAddressByPc, step4 := sigOperandToA } := rfl
@[simp] theorem executeRowJmp (z c : Bool) : executeRow 0x6#4 z c =
    { step3 := sigAddressByPc, step4 := sigOperandToPc } := rfl
@[simp] theorem executeRowJc (z c : Bool) : executeRow 0x7#4 z c =
    { step3 := sigAddressByPc, step4 := sigJumpIf c } := rfl
@[simp] theorem executeRowJz (z c : Bool) : executeRow 0x8#4 z c =
    { step3 := sigAddressByPc, step4 := sigJumpIf z } := rfl
@[simp] theorem executeRowRsv9 (z c : Bool) : executeRow 0x9#4 z c =
    {} := rfl
@[simp] theorem executeRowRsvA (z c : Bool) : executeRow 0xA#4 z c =
    {} := rfl
@[simp] theorem executeRowRsvB (z c : Bool) : executeRow 0xB#4 z c =
    {} := rfl
@[simp] theorem executeRowRsvC (z c : Bool) : executeRow 0xC#4 z c =
    {} := rfl
@[simp] theorem executeRowRsvD (z c : Bool) : executeRow 0xD#4 z c =
    {} := rfl
@[simp] theorem executeRowOut (z c : Bool) : executeRow 0xE#4 z c =
    { step3 := sigAToOut } := rfl
@[simp] theorem executeRowHlt (z c : Bool) : executeRow 0xF#4 z c =
    { step3 := sigHalt } := rfl

/-- Every nibble is one of the sixteen opcodes. -/
theorem opcode_cases (op : Nibble) :
    op = 0x0#4 ∨ op = 0x1#4 ∨ op = 0x2#4 ∨ op = 0x3#4 ∨ op = 0x4#4 ∨ op = 0x5#4 ∨ op = 0x6#4 ∨ op = 0x7#4 ∨
    op = 0x8#4 ∨ op = 0x9#4 ∨ op = 0xA#4 ∨ op = 0xB#4 ∨ op = 0xC#4 ∨ op = 0xD#4 ∨ op = 0xE#4 ∨ op = 0xF#4 := by
  revert op
  decide

/-- Every step number is one of the eight slots. -/
theorem stepNo_cases (k : StepNo) :
    k = 0#3 ∨ k = 1#3 ∨ k = 2#3 ∨ k = 3#3 ∨ k = 4#3 ∨ k = 5#3 ∨ k = 6#3 ∨ k = 7#3 := by
  revert k
  decide

@[simp] theorem sigJumpIf_true : sigJumpIf true = sigOperandToPc := rfl
@[simp] theorem sigJumpIf_false : sigJumpIf false = sigOperandDropped := rfl

end Sys2Proof.Machine
end

