-- ==== Sys2Proof/Laws/Decode.lean ====
section
/-!
SUPPORT. The decoder's and encoder's small lemmas.
-/

namespace Sys2Proof

/-- The length rule agrees with the syntax (spec/30_encoding.md R64). -/
@[simp] theorem takesOperand_opcodeOf (i : Instr) : takesOperand (opcodeOf i) = (operandOf i).isSome := by
  cases i <;> rfl

/-- The opcode and the operand of an instruction determine it. -/
theorem decodePair_opcodeOf (i : Instr) : decodePair (opcodeOf i) ((operandOf i).getD 0#4) = i := by
  cases i <;> rfl

theorem decode_opcode_only {op : Nibble} (h : takesOperand op = false) (rest : List Nibble) :
    decode (op :: rest) = .ok (decodePair op 0#4, rest) := by
  cases rest <;> simp [decode, h]

theorem decode_with_operand {op : Nibble} (h : takesOperand op = true) (q : Nibble) (rest : List Nibble) :
    decode (op :: q :: rest) = .ok (decodePair op q, rest) := by
  simp [decode, h]

/-- A format N opcode ignores the nibble after it. -/
theorem decodePair_ignores_operand {op : Nibble} (h : takesOperand op = false) (q : Nibble) :
    decodePair op q = decodePair op 0#4 := by
  revert op q
  decide

end Sys2Proof
end

