-- ==== Sys2Proof/Laws/Memory.lean ====
section
/-!
SUPPORT. The laws of memory: a read after a write, other cells untouched, the canonical form kept by every operation.
-/

namespace Sys2Proof.Machine

@[simp] theorem cellNibble_nibbleCell (v : Nibble) : cellNibble (nibbleCell v) = v := by
  simp [cellNibble, nibbleCell]

theorem nibbleCell_toNat_lt (v : Nibble) : (nibbleCell v).toNat < 16 := by
  simp only [nibbleCell, BitVec.toNat_setWidth]
  omega

/-- A byte with an empty high half is the cell of its nibble. -/
theorem nibbleCell_cellNibble {v : BitVec 8} (h : v.toNat < 16) : nibbleCell (cellNibble v) = v := by
  apply BitVec.eq_of_toNat_eq
  simp only [nibbleCell, cellNibble, BitVec.toNat_setWidth]
  omega

/-! ### What `memCons` can do -/

theorem memLookup_memCons_same (k : Nat) (v : Nibble) {rest : Memory} (h : memLookup k rest = unlistedNibble) :
    memLookup k (memCons k v rest) = v := by
  unfold memCons
  split
  · next e => rw [h, e]
  · simp [memLookup]

theorem memLookup_memCons_other {k j : Nat} (v : Nibble) (rest : Memory) (h : j ≠ k) :
    memLookup j (memCons k v rest) = memLookup j rest := by
  unfold memCons
  split
  · rfl
  · simp [memLookup, Ne.symm h]

theorem memWfFrom_mono {lo lo' : Nat} (h : lo' ≤ lo) {m : Memory} (w : memWfFrom lo m = true) :
    memWfFrom lo' m = true := by
  cases m with
  | nil => rfl
  | cons c rest =>
    simp only [memWfFrom, Bool.and_eq_true, decide_eq_true_eq] at w ⊢
    exact ⟨⟨by omega, w.1.2⟩, w.2⟩

theorem memWfFrom_memCons {lo k : Nat} (v : Nibble) {rest : Memory} (hlo : lo ≤ k) (hk : k < Config.ramWords)
    (w : memWfFrom (k + 1) rest = true) : memWfFrom lo (memCons k v rest) = true := by
  unfold memCons
  split
  · exact memWfFrom_mono (by omega) w
  · next hv =>
    simp [memWfFrom, cellWf, hlo, hk, w, nibbleCell_toNat_lt, hv]

/-- No key below the bound of a canonical form is listed. -/
theorem memLookup_of_lt {lo k : Nat} (h : k < lo) {m : Memory} (w : memWfFrom lo m = true) :
    memLookup k m = unlistedNibble := by
  induction m generalizing lo with
  | nil => rfl
  | cons c rest ih =>
    simp only [memWfFrom, Bool.and_eq_true, decide_eq_true_eq] at w
    rw [memLookup, if_neg (by omega)]
    exact ih (lo := c.1 + 1) (by omega) w.2

/-! ### What `memInsert` can do -/

theorem memLookup_memInsert_same (k : Nat) (v : Nibble) {lo : Nat} {m : Memory} (w : memWfFrom lo m = true) :
    memLookup k (memInsert k v m) = v := by
  induction m generalizing lo with
  | nil => exact memLookup_memCons_same k v rfl
  | cons c rest ih =>
    have w' := w
    simp only [memWfFrom, Bool.and_eq_true, decide_eq_true_eq] at w
    simp only [memInsert]
    split
    · next h =>
      refine memLookup_memCons_same k v ?_
      rw [memLookup, if_neg (by omega)]
      exact memLookup_of_lt (lo := c.1 + 1) (by omega) w.2
    · split
      · next h =>
        exact memLookup_memCons_same k v (memLookup_of_lt (by omega) w.2)
      · next h =>
        rw [memLookup, if_neg (Ne.symm h)]
        exact ih w.2

theorem memLookup_memInsert_other {k j : Nat} (v : Nibble) (m : Memory) (h : j ≠ k) :
    memLookup j (memInsert k v m) = memLookup j m := by
  induction m with
  | nil => exact memLookup_memCons_other v [] h
  | cons c rest ih =>
    simp only [memInsert]
    split
    · exact memLookup_memCons_other v _ h
    · split
      · next e => rw [memLookup_memCons_other v rest h, memLookup, if_neg (by omega)]
      · simp only [memLookup, ih]

theorem memWfFrom_memInsert {lo k : Nat} (v : Nibble) {m : Memory} (hlo : lo ≤ k) (hk : k < Config.ramWords)
    (w : memWfFrom lo m = true) : memWfFrom lo (memInsert k v m) = true := by
  induction m generalizing lo with
  | nil => exact memWfFrom_memCons v hlo hk rfl
  | cons c rest ih =>
    have w' := w
    simp only [memWfFrom, Bool.and_eq_true, decide_eq_true_eq] at w
    simp only [memInsert]
    split
    · next h =>
      refine memWfFrom_memCons v hlo hk ?_
      simp [memWfFrom, w.1.2, w.2, Nat.succ_le_of_lt h]
    · split
      · next h => exact memWfFrom_memCons v hlo hk (h ▸ w.2)
      · next h1 h2 =>
        simp only [memWfFrom, Bool.and_eq_true, decide_eq_true_eq]
        exact ⟨w.1, ih (by omega) w.2⟩

/-! ### The two primitives (R42) -/

theorem memRead_memWrite_same {m : Memory} (w : m.wf = true) (addr v : Nibble) :
    memRead (memWrite m addr v) addr = v :=
  memLookup_memInsert_same _ _ w

theorem memRead_memWrite_other (m : Memory) {addr other : Nibble} (v : Nibble) (h : other ≠ addr) :
    memRead (memWrite m addr v) other = memRead m other :=
  memLookup_memInsert_other v m fun e => h (BitVec.eq_of_toNat_eq e)

/-- Every write keeps the canonical form. -/
theorem memWrite_wf {m : Memory} (w : m.wf = true) (addr v : Nibble) : (memWrite m addr v).wf = true :=
  memWfFrom_memInsert v (Nat.zero_le _) addr.isLt w

/-- A program image keeps the canonical form. -/
theorem loadFrom_wf (words : List Int) (i : Nat) {m : Memory} (w : m.wf = true) : (loadFrom i words m).wf = true := by
  induction words generalizing i m with
  | nil => exact w
  | cons v rest ih => exact ih (i + 1) (memWrite_wf w _ _)

theorem reset_memory_wf : State.reset.ram.wf = true := rfl

end Sys2Proof.Machine
end

