-- ==== Sys2Proof/Laws/PerInstr.lean ====
section
/-!
SUPPORT. Families of facts stated for one instruction at a time.
-/

namespace Sys2Proof.Laws.LengthFromOpcode

/-- The nibbles of an instruction begin with its opcode, and the opcode alone tells how many there are: two for 0x1 to 0x8,
one for all others (spec/30_encoding.md R60, R64). -/
def Statement (i : Instr) : Prop :=
  (encode i).head? = some (opcodeOf i) ∧ (encode i).length = if takesOperand (opcodeOf i) then 2 else 1

theorem nop : Statement .nop := ⟨rfl, rfl⟩
theorem lda (q : Nibble) : Statement (.lda q) := ⟨rfl, rfl⟩
theorem add (q : Nibble) : Statement (.add q) := ⟨rfl, rfl⟩
theorem sub (q : Nibble) : Statement (.sub q) := ⟨rfl, rfl⟩
theorem sta (q : Nibble) : Statement (.sta q) := ⟨rfl, rfl⟩
theorem ldi (q : Nibble) : Statement (.ldi q) := ⟨rfl, rfl⟩
theorem jmp (q : Nibble) : Statement (.jmp q) := ⟨rfl, rfl⟩
theorem jc (q : Nibble) : Statement (.jc q) := ⟨rfl, rfl⟩
theorem jz (q : Nibble) : Statement (.jz q) := ⟨rfl, rfl⟩
theorem rsv9 : Statement .rsv9 := ⟨rfl, rfl⟩
theorem rsvA : Statement .rsvA := ⟨rfl, rfl⟩
theorem rsvB : Statement .rsvB := ⟨rfl, rfl⟩
theorem rsvC : Statement .rsvC := ⟨rfl, rfl⟩
theorem rsvD : Statement .rsvD := ⟨rfl, rfl⟩
theorem out : Statement .out := ⟨rfl, rfl⟩
theorem hlt : Statement .hlt := ⟨rfl, rfl⟩

end Sys2Proof.Laws.LengthFromOpcode
end

