-- ==== Sys2Proof/Laws/State.lean ====
section
/-!
SUPPORT. One lemma for each field of State and each update of it, true by rfl, so that no proof unfolds a record update.
-/

namespace Sys2Proof.Machine

@[simp] theorem driveBus_pc (v : Nibble) (s : State) : (driveBus v s).pc = s.pc := rfl
@[simp] theorem driveBus_mar (v : Nibble) (s : State) : (driveBus v s).mar = s.mar := rfl
@[simp] theorem driveBus_ir (v : Nibble) (s : State) : (driveBus v s).ir = s.ir := rfl
@[simp] theorem driveBus_a (v : Nibble) (s : State) : (driveBus v s).a = s.a := rfl
@[simp] theorem driveBus_b (v : Nibble) (s : State) : (driveBus v s).b = s.b := rfl
@[simp] theorem driveBus_out (v : Nibble) (s : State) : (driveBus v s).out = s.out := rfl
@[simp] theorem driveBus_bus (v : Nibble) (s : State) : (driveBus v s).bus = v := rfl
@[simp] theorem driveBus_zero (v : Nibble) (s : State) : (driveBus v s).zero = s.zero := rfl
@[simp] theorem driveBus_carry (v : Nibble) (s : State) : (driveBus v s).carry = s.carry := rfl
@[simp] theorem driveBus_aluResult (v : Nibble) (s : State) : (driveBus v s).aluResult = s.aluResult := rfl
@[simp] theorem driveBus_stepCtr (v : Nibble) (s : State) : (driveBus v s).stepCtr = s.stepCtr := rfl
@[simp] theorem driveBus_halted (v : Nibble) (s : State) : (driveBus v s).halted = s.halted := rfl
@[simp] theorem driveBus_signals (v : Nibble) (s : State) : (driveBus v s).signals = s.signals := rfl
@[simp] theorem driveBus_ram (v : Nibble) (s : State) : (driveBus v s).ram = s.ram := rfl

@[simp] theorem recordAlu_pc (o : AluOutput) (s : State) : (recordAlu o s).pc = s.pc := rfl
@[simp] theorem recordAlu_mar (o : AluOutput) (s : State) : (recordAlu o s).mar = s.mar := rfl
@[simp] theorem recordAlu_ir (o : AluOutput) (s : State) : (recordAlu o s).ir = s.ir := rfl
@[simp] theorem recordAlu_a (o : AluOutput) (s : State) : (recordAlu o s).a = s.a := rfl
@[simp] theorem recordAlu_b (o : AluOutput) (s : State) : (recordAlu o s).b = s.b := rfl
@[simp] theorem recordAlu_out (o : AluOutput) (s : State) : (recordAlu o s).out = s.out := rfl
@[simp] theorem recordAlu_bus (o : AluOutput) (s : State) : (recordAlu o s).bus = s.bus := rfl
@[simp] theorem recordAlu_zero (o : AluOutput) (s : State) : (recordAlu o s).zero = o.zero := rfl
@[simp] theorem recordAlu_carry (o : AluOutput) (s : State) : (recordAlu o s).carry = o.carry := rfl
@[simp] theorem recordAlu_aluResult (o : AluOutput) (s : State) : (recordAlu o s).aluResult = o.result := rfl
@[simp] theorem recordAlu_stepCtr (o : AluOutput) (s : State) : (recordAlu o s).stepCtr = s.stepCtr := rfl
@[simp] theorem recordAlu_halted (o : AluOutput) (s : State) : (recordAlu o s).halted = s.halted := rfl
@[simp] theorem recordAlu_signals (o : AluOutput) (s : State) : (recordAlu o s).signals = s.signals := rfl
@[simp] theorem recordAlu_ram (o : AluOutput) (s : State) : (recordAlu o s).ram = s.ram := rfl

@[simp] theorem loadMAR_pc (s : State) : (loadMAR s).pc = s.pc := rfl
@[simp] theorem loadMAR_mar (s : State) : (loadMAR s).mar = s.bus := rfl
@[simp] theorem loadMAR_ir (s : State) : (loadMAR s).ir = s.ir := rfl
@[simp] theorem loadMAR_a (s : State) : (loadMAR s).a = s.a := rfl
@[simp] theorem loadMAR_b (s : State) : (loadMAR s).b = s.b := rfl
@[simp] theorem loadMAR_out (s : State) : (loadMAR s).out = s.out := rfl
@[simp] theorem loadMAR_bus (s : State) : (loadMAR s).bus = s.bus := rfl
@[simp] theorem loadMAR_zero (s : State) : (loadMAR s).zero = s.zero := rfl
@[simp] theorem loadMAR_carry (s : State) : (loadMAR s).carry = s.carry := rfl
@[simp] theorem loadMAR_aluResult (s : State) : (loadMAR s).aluResult = s.aluResult := rfl
@[simp] theorem loadMAR_stepCtr (s : State) : (loadMAR s).stepCtr = s.stepCtr := rfl
@[simp] theorem loadMAR_halted (s : State) : (loadMAR s).halted = s.halted := rfl
@[simp] theorem loadMAR_signals (s : State) : (loadMAR s).signals = s.signals := rfl
@[simp] theorem loadMAR_ram (s : State) : (loadMAR s).ram = s.ram := rfl

@[simp] theorem irIn_pc (s : State) : (irIn s).pc = s.pc := rfl
@[simp] theorem irIn_mar (s : State) : (irIn s).mar = s.mar := rfl
@[simp] theorem irIn_ir (s : State) : (irIn s).ir = s.bus := rfl
@[simp] theorem irIn_a (s : State) : (irIn s).a = s.a := rfl
@[simp] theorem irIn_b (s : State) : (irIn s).b = s.b := rfl
@[simp] theorem irIn_out (s : State) : (irIn s).out = s.out := rfl
@[simp] theorem irIn_bus (s : State) : (irIn s).bus = s.bus := rfl
@[simp] theorem irIn_zero (s : State) : (irIn s).zero = s.zero := rfl
@[simp] theorem irIn_carry (s : State) : (irIn s).carry = s.carry := rfl
@[simp] theorem irIn_aluResult (s : State) : (irIn s).aluResult = s.aluResult := rfl
@[simp] theorem irIn_stepCtr (s : State) : (irIn s).stepCtr = s.stepCtr := rfl
@[simp] theorem irIn_halted (s : State) : (irIn s).halted = s.halted := rfl
@[simp] theorem irIn_signals (s : State) : (irIn s).signals = s.signals := rfl
@[simp] theorem irIn_ram (s : State) : (irIn s).ram = s.ram := rfl

@[simp] theorem aIn_pc (s : State) : (aIn s).pc = s.pc := rfl
@[simp] theorem aIn_mar (s : State) : (aIn s).mar = s.mar := rfl
@[simp] theorem aIn_ir (s : State) : (aIn s).ir = s.ir := rfl
@[simp] theorem aIn_a (s : State) : (aIn s).a = s.bus := rfl
@[simp] theorem aIn_b (s : State) : (aIn s).b = s.b := rfl
@[simp] theorem aIn_out (s : State) : (aIn s).out = s.out := rfl
@[simp] theorem aIn_bus (s : State) : (aIn s).bus = s.bus := rfl
@[simp] theorem aIn_zero (s : State) : (aIn s).zero = s.zero := rfl
@[simp] theorem aIn_carry (s : State) : (aIn s).carry = s.carry := rfl
@[simp] theorem aIn_aluResult (s : State) : (aIn s).aluResult = s.aluResult := rfl
@[simp] theorem aIn_stepCtr (s : State) : (aIn s).stepCtr = s.stepCtr := rfl
@[simp] theorem aIn_halted (s : State) : (aIn s).halted = s.halted := rfl
@[simp] theorem aIn_signals (s : State) : (aIn s).signals = s.signals := rfl
@[simp] theorem aIn_ram (s : State) : (aIn s).ram = s.ram := rfl

@[simp] theorem bIn_pc (s : State) : (bIn s).pc = s.pc := rfl
@[simp] theorem bIn_mar (s : State) : (bIn s).mar = s.mar := rfl
@[simp] theorem bIn_ir (s : State) : (bIn s).ir = s.ir := rfl
@[simp] theorem bIn_a (s : State) : (bIn s).a = s.a := rfl
@[simp] theorem bIn_b (s : State) : (bIn s).b = s.bus := rfl
@[simp] theorem bIn_out (s : State) : (bIn s).out = s.out := rfl
@[simp] theorem bIn_bus (s : State) : (bIn s).bus = s.bus := rfl
@[simp] theorem bIn_zero (s : State) : (bIn s).zero = s.zero := rfl
@[simp] theorem bIn_carry (s : State) : (bIn s).carry = s.carry := rfl
@[simp] theorem bIn_aluResult (s : State) : (bIn s).aluResult = s.aluResult := rfl
@[simp] theorem bIn_stepCtr (s : State) : (bIn s).stepCtr = s.stepCtr := rfl
@[simp] theorem bIn_halted (s : State) : (bIn s).halted = s.halted := rfl
@[simp] theorem bIn_signals (s : State) : (bIn s).signals = s.signals := rfl
@[simp] theorem bIn_ram (s : State) : (bIn s).ram = s.ram := rfl

@[simp] theorem outIn_pc (s : State) : (outIn s).pc = s.pc := rfl
@[simp] theorem outIn_mar (s : State) : (outIn s).mar = s.mar := rfl
@[simp] theorem outIn_ir (s : State) : (outIn s).ir = s.ir := rfl
@[simp] theorem outIn_a (s : State) : (outIn s).a = s.a := rfl
@[simp] theorem outIn_b (s : State) : (outIn s).b = s.b := rfl
@[simp] theorem outIn_out (s : State) : (outIn s).out = s.bus := rfl
@[simp] theorem outIn_bus (s : State) : (outIn s).bus = s.bus := rfl
@[simp] theorem outIn_zero (s : State) : (outIn s).zero = s.zero := rfl
@[simp] theorem outIn_carry (s : State) : (outIn s).carry = s.carry := rfl
@[simp] theorem outIn_aluResult (s : State) : (outIn s).aluResult = s.aluResult := rfl
@[simp] theorem outIn_stepCtr (s : State) : (outIn s).stepCtr = s.stepCtr := rfl
@[simp] theorem outIn_halted (s : State) : (outIn s).halted = s.halted := rfl
@[simp] theorem outIn_signals (s : State) : (outIn s).signals = s.signals := rfl
@[simp] theorem outIn_ram (s : State) : (outIn s).ram = s.ram := rfl

@[simp] theorem ramIn_pc (s : State) : (ramIn s).pc = s.pc := rfl
@[simp] theorem ramIn_mar (s : State) : (ramIn s).mar = s.mar := rfl
@[simp] theorem ramIn_ir (s : State) : (ramIn s).ir = s.ir := rfl
@[simp] theorem ramIn_a (s : State) : (ramIn s).a = s.a := rfl
@[simp] theorem ramIn_b (s : State) : (ramIn s).b = s.b := rfl
@[simp] theorem ramIn_out (s : State) : (ramIn s).out = s.out := rfl
@[simp] theorem ramIn_bus (s : State) : (ramIn s).bus = s.bus := rfl
@[simp] theorem ramIn_zero (s : State) : (ramIn s).zero = s.zero := rfl
@[simp] theorem ramIn_carry (s : State) : (ramIn s).carry = s.carry := rfl
@[simp] theorem ramIn_aluResult (s : State) : (ramIn s).aluResult = s.aluResult := rfl
@[simp] theorem ramIn_stepCtr (s : State) : (ramIn s).stepCtr = s.stepCtr := rfl
@[simp] theorem ramIn_halted (s : State) : (ramIn s).halted = s.halted := rfl
@[simp] theorem ramIn_signals (s : State) : (ramIn s).signals = s.signals := rfl
@[simp] theorem ramIn_ram (s : State) : (ramIn s).ram = memWrite s.ram s.mar s.bus := rfl

@[simp] theorem jump_pc (s : State) : (jump s).pc = s.bus := rfl
@[simp] theorem jump_mar (s : State) : (jump s).mar = s.mar := rfl
@[simp] theorem jump_ir (s : State) : (jump s).ir = s.ir := rfl
@[simp] theorem jump_a (s : State) : (jump s).a = s.a := rfl
@[simp] theorem jump_b (s : State) : (jump s).b = s.b := rfl
@[simp] theorem jump_out (s : State) : (jump s).out = s.out := rfl
@[simp] theorem jump_bus (s : State) : (jump s).bus = s.bus := rfl
@[simp] theorem jump_zero (s : State) : (jump s).zero = s.zero := rfl
@[simp] theorem jump_carry (s : State) : (jump s).carry = s.carry := rfl
@[simp] theorem jump_aluResult (s : State) : (jump s).aluResult = s.aluResult := rfl
@[simp] theorem jump_stepCtr (s : State) : (jump s).stepCtr = s.stepCtr := rfl
@[simp] theorem jump_halted (s : State) : (jump s).halted = s.halted := rfl
@[simp] theorem jump_signals (s : State) : (jump s).signals = s.signals := rfl
@[simp] theorem jump_ram (s : State) : (jump s).ram = s.ram := rfl

@[simp] theorem counterEnable_pc (s : State) : (counterEnable s).pc = regIncrement s.pc := rfl
@[simp] theorem counterEnable_mar (s : State) : (counterEnable s).mar = s.mar := rfl
@[simp] theorem counterEnable_ir (s : State) : (counterEnable s).ir = s.ir := rfl
@[simp] theorem counterEnable_a (s : State) : (counterEnable s).a = s.a := rfl
@[simp] theorem counterEnable_b (s : State) : (counterEnable s).b = s.b := rfl
@[simp] theorem counterEnable_out (s : State) : (counterEnable s).out = s.out := rfl
@[simp] theorem counterEnable_bus (s : State) : (counterEnable s).bus = s.bus := rfl
@[simp] theorem counterEnable_zero (s : State) : (counterEnable s).zero = s.zero := rfl
@[simp] theorem counterEnable_carry (s : State) : (counterEnable s).carry = s.carry := rfl
@[simp] theorem counterEnable_aluResult (s : State) : (counterEnable s).aluResult = s.aluResult := rfl
@[simp] theorem counterEnable_stepCtr (s : State) : (counterEnable s).stepCtr = s.stepCtr := rfl
@[simp] theorem counterEnable_halted (s : State) : (counterEnable s).halted = s.halted := rfl
@[simp] theorem counterEnable_signals (s : State) : (counterEnable s).signals = s.signals := rfl
@[simp] theorem counterEnable_ram (s : State) : (counterEnable s).ram = s.ram := rfl

@[simp] theorem halt_pc (s : State) : (halt s).pc = s.pc := rfl
@[simp] theorem halt_mar (s : State) : (halt s).mar = s.mar := rfl
@[simp] theorem halt_ir (s : State) : (halt s).ir = s.ir := rfl
@[simp] theorem halt_a (s : State) : (halt s).a = s.a := rfl
@[simp] theorem halt_b (s : State) : (halt s).b = s.b := rfl
@[simp] theorem halt_out (s : State) : (halt s).out = s.out := rfl
@[simp] theorem halt_bus (s : State) : (halt s).bus = s.bus := rfl
@[simp] theorem halt_zero (s : State) : (halt s).zero = s.zero := rfl
@[simp] theorem halt_carry (s : State) : (halt s).carry = s.carry := rfl
@[simp] theorem halt_aluResult (s : State) : (halt s).aluResult = s.aluResult := rfl
@[simp] theorem halt_stepCtr (s : State) : (halt s).stepCtr = s.stepCtr := rfl
@[simp] theorem halt_halted (s : State) : (halt s).halted = true := rfl
@[simp] theorem halt_signals (s : State) : (halt s).signals = s.signals := rfl
@[simp] theorem halt_ram (s : State) : (halt s).ram = s.ram := rfl

@[simp] theorem recordSignals_pc (g : SignalSet) (s : State) : (recordSignals g s).pc = s.pc := rfl
@[simp] theorem recordSignals_mar (g : SignalSet) (s : State) : (recordSignals g s).mar = s.mar := rfl
@[simp] theorem recordSignals_ir (g : SignalSet) (s : State) : (recordSignals g s).ir = s.ir := rfl
@[simp] theorem recordSignals_a (g : SignalSet) (s : State) : (recordSignals g s).a = s.a := rfl
@[simp] theorem recordSignals_b (g : SignalSet) (s : State) : (recordSignals g s).b = s.b := rfl
@[simp] theorem recordSignals_out (g : SignalSet) (s : State) : (recordSignals g s).out = s.out := rfl
@[simp] theorem recordSignals_bus (g : SignalSet) (s : State) : (recordSignals g s).bus = s.bus := rfl
@[simp] theorem recordSignals_zero (g : SignalSet) (s : State) : (recordSignals g s).zero = s.zero := rfl
@[simp] theorem recordSignals_carry (g : SignalSet) (s : State) : (recordSignals g s).carry = s.carry := rfl
@[simp] theorem recordSignals_aluResult (g : SignalSet) (s : State) : (recordSignals g s).aluResult = s.aluResult := rfl
@[simp] theorem recordSignals_stepCtr (g : SignalSet) (s : State) : (recordSignals g s).stepCtr = s.stepCtr := rfl
@[simp] theorem recordSignals_halted (g : SignalSet) (s : State) : (recordSignals g s).halted = s.halted := rfl
@[simp] theorem recordSignals_signals (g : SignalSet) (s : State) : (recordSignals g s).signals = g := rfl
@[simp] theorem recordSignals_ram (g : SignalSet) (s : State) : (recordSignals g s).ram = s.ram := rfl

@[simp] theorem advanceStep_pc (s : State) : (advanceStep s).pc = s.pc := rfl
@[simp] theorem advanceStep_mar (s : State) : (advanceStep s).mar = s.mar := rfl
@[simp] theorem advanceStep_ir (s : State) : (advanceStep s).ir = s.ir := rfl
@[simp] theorem advanceStep_a (s : State) : (advanceStep s).a = s.a := rfl
@[simp] theorem advanceStep_b (s : State) : (advanceStep s).b = s.b := rfl
@[simp] theorem advanceStep_out (s : State) : (advanceStep s).out = s.out := rfl
@[simp] theorem advanceStep_bus (s : State) : (advanceStep s).bus = s.bus := rfl
@[simp] theorem advanceStep_zero (s : State) : (advanceStep s).zero = s.zero := rfl
@[simp] theorem advanceStep_carry (s : State) : (advanceStep s).carry = s.carry := rfl
@[simp] theorem advanceStep_aluResult (s : State) : (advanceStep s).aluResult = s.aluResult := rfl
@[simp] theorem advanceStep_stepCtr (s : State) : (advanceStep s).stepCtr = s.stepCtr + 1#3 := rfl
@[simp] theorem advanceStep_halted (s : State) : (advanceStep s).halted = s.halted := rfl
@[simp] theorem advanceStep_signals (s : State) : (advanceStep s).signals = s.signals := rfl
@[simp] theorem advanceStep_ram (s : State) : (advanceStep s).ram = s.ram := rfl

@[simp] theorem fetchOpcode_pc (op : Nibble) (s : State) : (fetchOpcode op s).pc = regIncrement s.pc := rfl
@[simp] theorem fetchOpcode_mar (op : Nibble) (s : State) : (fetchOpcode op s).mar = s.pc := rfl
@[simp] theorem fetchOpcode_ir (op : Nibble) (s : State) : (fetchOpcode op s).ir = op := rfl
@[simp] theorem fetchOpcode_a (op : Nibble) (s : State) : (fetchOpcode op s).a = s.a := rfl
@[simp] theorem fetchOpcode_b (op : Nibble) (s : State) : (fetchOpcode op s).b = s.b := rfl
@[simp] theorem fetchOpcode_out (op : Nibble) (s : State) : (fetchOpcode op s).out = s.out := rfl
@[simp] theorem fetchOpcode_bus (op : Nibble) (s : State) : (fetchOpcode op s).bus = op := rfl
@[simp] theorem fetchOpcode_zero (op : Nibble) (s : State) : (fetchOpcode op s).zero = s.zero := rfl
@[simp] theorem fetchOpcode_carry (op : Nibble) (s : State) : (fetchOpcode op s).carry = s.carry := rfl
@[simp] theorem fetchOpcode_aluResult (op : Nibble) (s : State) : (fetchOpcode op s).aluResult = s.aluResult := rfl
@[simp] theorem fetchOpcode_stepCtr (op : Nibble) (s : State) : (fetchOpcode op s).stepCtr = s.stepCtr := rfl
@[simp] theorem fetchOpcode_halted (op : Nibble) (s : State) : (fetchOpcode op s).halted = s.halted := rfl
@[simp] theorem fetchOpcode_signals (op : Nibble) (s : State) : (fetchOpcode op s).signals = s.signals := rfl
@[simp] theorem fetchOpcode_ram (op : Nibble) (s : State) : (fetchOpcode op s).ram = s.ram := rfl

@[simp] theorem addressOperand_pc (s : State) : (addressOperand s).pc = s.pc := rfl
@[simp] theorem addressOperand_mar (s : State) : (addressOperand s).mar = s.pc := rfl
@[simp] theorem addressOperand_ir (s : State) : (addressOperand s).ir = s.ir := rfl
@[simp] theorem addressOperand_a (s : State) : (addressOperand s).a = s.a := rfl
@[simp] theorem addressOperand_b (s : State) : (addressOperand s).b = s.b := rfl
@[simp] theorem addressOperand_out (s : State) : (addressOperand s).out = s.out := rfl
@[simp] theorem addressOperand_bus (s : State) : (addressOperand s).bus = s.pc := rfl
@[simp] theorem addressOperand_zero (s : State) : (addressOperand s).zero = s.zero := rfl
@[simp] theorem addressOperand_carry (s : State) : (addressOperand s).carry = s.carry := rfl
@[simp] theorem addressOperand_aluResult (s : State) : (addressOperand s).aluResult = s.aluResult := rfl
@[simp] theorem addressOperand_stepCtr (s : State) : (addressOperand s).stepCtr = s.stepCtr := rfl
@[simp] theorem addressOperand_halted (s : State) : (addressOperand s).halted = s.halted := rfl
@[simp] theorem addressOperand_signals (s : State) : (addressOperand s).signals = s.signals := rfl
@[simp] theorem addressOperand_ram (s : State) : (addressOperand s).ram = s.ram := rfl

@[simp] theorem operandToA_pc (q : Nibble) (s : State) : (operandToA q s).pc = regIncrement s.pc := rfl
@[simp] theorem operandToA_mar (q : Nibble) (s : State) : (operandToA q s).mar = s.mar := rfl
@[simp] theorem operandToA_ir (q : Nibble) (s : State) : (operandToA q s).ir = s.ir := rfl
@[simp] theorem operandToA_a (q : Nibble) (s : State) : (operandToA q s).a = q := rfl
@[simp] theorem operandToA_b (q : Nibble) (s : State) : (operandToA q s).b = s.b := rfl
@[simp] theorem operandToA_out (q : Nibble) (s : State) : (operandToA q s).out = s.out := rfl
@[simp] theorem operandToA_bus (q : Nibble) (s : State) : (operandToA q s).bus = q := rfl
@[simp] theorem operandToA_zero (q : Nibble) (s : State) : (operandToA q s).zero = s.zero := rfl
@[simp] theorem operandToA_carry (q : Nibble) (s : State) : (operandToA q s).carry = s.carry := rfl
@[simp] theorem operandToA_aluResult (q : Nibble) (s : State) : (operandToA q s).aluResult = s.aluResult := rfl
@[simp] theorem operandToA_stepCtr (q : Nibble) (s : State) : (operandToA q s).stepCtr = s.stepCtr := rfl
@[simp] theorem operandToA_halted (q : Nibble) (s : State) : (operandToA q s).halted = s.halted := rfl
@[simp] theorem operandToA_signals (q : Nibble) (s : State) : (operandToA q s).signals = s.signals := rfl
@[simp] theorem operandToA_ram (q : Nibble) (s : State) : (operandToA q s).ram = s.ram := rfl

@[simp] theorem operandToMar_pc (q : Nibble) (s : State) : (operandToMar q s).pc = regIncrement s.pc := rfl
@[simp] theorem operandToMar_mar (q : Nibble) (s : State) : (operandToMar q s).mar = q := rfl
@[simp] theorem operandToMar_ir (q : Nibble) (s : State) : (operandToMar q s).ir = s.ir := rfl
@[simp] theorem operandToMar_a (q : Nibble) (s : State) : (operandToMar q s).a = s.a := rfl
@[simp] theorem operandToMar_b (q : Nibble) (s : State) : (operandToMar q s).b = s.b := rfl
@[simp] theorem operandToMar_out (q : Nibble) (s : State) : (operandToMar q s).out = s.out := rfl
@[simp] theorem operandToMar_bus (q : Nibble) (s : State) : (operandToMar q s).bus = q := rfl
@[simp] theorem operandToMar_zero (q : Nibble) (s : State) : (operandToMar q s).zero = s.zero := rfl
@[simp] theorem operandToMar_carry (q : Nibble) (s : State) : (operandToMar q s).carry = s.carry := rfl
@[simp] theorem operandToMar_aluResult (q : Nibble) (s : State) : (operandToMar q s).aluResult = s.aluResult := rfl
@[simp] theorem operandToMar_stepCtr (q : Nibble) (s : State) : (operandToMar q s).stepCtr = s.stepCtr := rfl
@[simp] theorem operandToMar_halted (q : Nibble) (s : State) : (operandToMar q s).halted = s.halted := rfl
@[simp] theorem operandToMar_signals (q : Nibble) (s : State) : (operandToMar q s).signals = s.signals := rfl
@[simp] theorem operandToMar_ram (q : Nibble) (s : State) : (operandToMar q s).ram = s.ram := rfl

@[simp] theorem operandToPc_pc (q : Nibble) (s : State) : (operandToPc q s).pc = q := rfl
@[simp] theorem operandToPc_mar (q : Nibble) (s : State) : (operandToPc q s).mar = s.mar := rfl
@[simp] theorem operandToPc_ir (q : Nibble) (s : State) : (operandToPc q s).ir = s.ir := rfl
@[simp] theorem operandToPc_a (q : Nibble) (s : State) : (operandToPc q s).a = s.a := rfl
@[simp] theorem operandToPc_b (q : Nibble) (s : State) : (operandToPc q s).b = s.b := rfl
@[simp] theorem operandToPc_out (q : Nibble) (s : State) : (operandToPc q s).out = s.out := rfl
@[simp] theorem operandToPc_bus (q : Nibble) (s : State) : (operandToPc q s).bus = q := rfl
@[simp] theorem operandToPc_zero (q : Nibble) (s : State) : (operandToPc q s).zero = s.zero := rfl
@[simp] theorem operandToPc_carry (q : Nibble) (s : State) : (operandToPc q s).carry = s.carry := rfl
@[simp] theorem operandToPc_aluResult (q : Nibble) (s : State) : (operandToPc q s).aluResult = s.aluResult := rfl
@[simp] theorem operandToPc_stepCtr (q : Nibble) (s : State) : (operandToPc q s).stepCtr = s.stepCtr := rfl
@[simp] theorem operandToPc_halted (q : Nibble) (s : State) : (operandToPc q s).halted = s.halted := rfl
@[simp] theorem operandToPc_signals (q : Nibble) (s : State) : (operandToPc q s).signals = s.signals := rfl
@[simp] theorem operandToPc_ram (q : Nibble) (s : State) : (operandToPc q s).ram = s.ram := rfl

@[simp] theorem operandDropped_pc (q : Nibble) (s : State) : (operandDropped q s).pc = regIncrement s.pc := rfl
@[simp] theorem operandDropped_mar (q : Nibble) (s : State) : (operandDropped q s).mar = s.mar := rfl
@[simp] theorem operandDropped_ir (q : Nibble) (s : State) : (operandDropped q s).ir = s.ir := rfl
@[simp] theorem operandDropped_a (q : Nibble) (s : State) : (operandDropped q s).a = s.a := rfl
@[simp] theorem operandDropped_b (q : Nibble) (s : State) : (operandDropped q s).b = s.b := rfl
@[simp] theorem operandDropped_out (q : Nibble) (s : State) : (operandDropped q s).out = s.out := rfl
@[simp] theorem operandDropped_bus (q : Nibble) (s : State) : (operandDropped q s).bus = q := rfl
@[simp] theorem operandDropped_zero (q : Nibble) (s : State) : (operandDropped q s).zero = s.zero := rfl
@[simp] theorem operandDropped_carry (q : Nibble) (s : State) : (operandDropped q s).carry = s.carry := rfl
@[simp] theorem operandDropped_aluResult (q : Nibble) (s : State) : (operandDropped q s).aluResult = s.aluResult := rfl
@[simp] theorem operandDropped_stepCtr (q : Nibble) (s : State) : (operandDropped q s).stepCtr = s.stepCtr := rfl
@[simp] theorem operandDropped_halted (q : Nibble) (s : State) : (operandDropped q s).halted = s.halted := rfl
@[simp] theorem operandDropped_signals (q : Nibble) (s : State) : (operandDropped q s).signals = s.signals := rfl
@[simp] theorem operandDropped_ram (q : Nibble) (s : State) : (operandDropped q s).ram = s.ram := rfl

@[simp] theorem cellToA_pc (s : State) : (cellToA s).pc = s.pc := rfl
@[simp] theorem cellToA_mar (s : State) : (cellToA s).mar = s.mar := rfl
@[simp] theorem cellToA_ir (s : State) : (cellToA s).ir = s.ir := rfl
@[simp] theorem cellToA_a (s : State) : (cellToA s).a = memRead s.ram s.mar := rfl
@[simp] theorem cellToA_b (s : State) : (cellToA s).b = s.b := rfl
@[simp] theorem cellToA_out (s : State) : (cellToA s).out = s.out := rfl
@[simp] theorem cellToA_bus (s : State) : (cellToA s).bus = memRead s.ram s.mar := rfl
@[simp] theorem cellToA_zero (s : State) : (cellToA s).zero = s.zero := rfl
@[simp] theorem cellToA_carry (s : State) : (cellToA s).carry = s.carry := rfl
@[simp] theorem cellToA_aluResult (s : State) : (cellToA s).aluResult = s.aluResult := rfl
@[simp] theorem cellToA_stepCtr (s : State) : (cellToA s).stepCtr = s.stepCtr := rfl
@[simp] theorem cellToA_halted (s : State) : (cellToA s).halted = s.halted := rfl
@[simp] theorem cellToA_signals (s : State) : (cellToA s).signals = s.signals := rfl
@[simp] theorem cellToA_ram (s : State) : (cellToA s).ram = s.ram := rfl

@[simp] theorem cellToB_pc (s : State) : (cellToB s).pc = s.pc := rfl
@[simp] theorem cellToB_mar (s : State) : (cellToB s).mar = s.mar := rfl
@[simp] theorem cellToB_ir (s : State) : (cellToB s).ir = s.ir := rfl
@[simp] theorem cellToB_a (s : State) : (cellToB s).a = s.a := rfl
@[simp] theorem cellToB_b (s : State) : (cellToB s).b = memRead s.ram s.mar := rfl
@[simp] theorem cellToB_out (s : State) : (cellToB s).out = s.out := rfl
@[simp] theorem cellToB_bus (s : State) : (cellToB s).bus = memRead s.ram s.mar := rfl
@[simp] theorem cellToB_zero (s : State) : (cellToB s).zero = s.zero := rfl
@[simp] theorem cellToB_carry (s : State) : (cellToB s).carry = s.carry := rfl
@[simp] theorem cellToB_aluResult (s : State) : (cellToB s).aluResult = s.aluResult := rfl
@[simp] theorem cellToB_stepCtr (s : State) : (cellToB s).stepCtr = s.stepCtr := rfl
@[simp] theorem cellToB_halted (s : State) : (cellToB s).halted = s.halted := rfl
@[simp] theorem cellToB_signals (s : State) : (cellToB s).signals = s.signals := rfl
@[simp] theorem cellToB_ram (s : State) : (cellToB s).ram = s.ram := rfl

@[simp] theorem aToCell_pc (s : State) : (aToCell s).pc = s.pc := rfl
@[simp] theorem aToCell_mar (s : State) : (aToCell s).mar = s.mar := rfl
@[simp] theorem aToCell_ir (s : State) : (aToCell s).ir = s.ir := rfl
@[simp] theorem aToCell_a (s : State) : (aToCell s).a = s.a := rfl
@[simp] theorem aToCell_b (s : State) : (aToCell s).b = s.b := rfl
@[simp] theorem aToCell_out (s : State) : (aToCell s).out = s.out := rfl
@[simp] theorem aToCell_bus (s : State) : (aToCell s).bus = s.a := rfl
@[simp] theorem aToCell_zero (s : State) : (aToCell s).zero = s.zero := rfl
@[simp] theorem aToCell_carry (s : State) : (aToCell s).carry = s.carry := rfl
@[simp] theorem aToCell_aluResult (s : State) : (aToCell s).aluResult = s.aluResult := rfl
@[simp] theorem aToCell_stepCtr (s : State) : (aToCell s).stepCtr = s.stepCtr := rfl
@[simp] theorem aToCell_halted (s : State) : (aToCell s).halted = s.halted := rfl
@[simp] theorem aToCell_signals (s : State) : (aToCell s).signals = s.signals := rfl
@[simp] theorem aToCell_ram (s : State) : (aToCell s).ram = memWrite s.ram s.mar s.a := rfl

@[simp] theorem aluToA_pc (sub : Bool) (s : State) : (aluToA sub s).pc = s.pc := rfl
@[simp] theorem aluToA_mar (sub : Bool) (s : State) : (aluToA sub s).mar = s.mar := rfl
@[simp] theorem aluToA_ir (sub : Bool) (s : State) : (aluToA sub s).ir = s.ir := rfl
@[simp] theorem aluToA_a (sub : Bool) (s : State) : (aluToA sub s).a = (alu s.a s.b sub).result := rfl
@[simp] theorem aluToA_b (sub : Bool) (s : State) : (aluToA sub s).b = s.b := rfl
@[simp] theorem aluToA_out (sub : Bool) (s : State) : (aluToA sub s).out = s.out := rfl
@[simp] theorem aluToA_bus (sub : Bool) (s : State) : (aluToA sub s).bus = (alu s.a s.b sub).result := rfl
@[simp] theorem aluToA_zero (sub : Bool) (s : State) : (aluToA sub s).zero = (alu s.a s.b sub).zero := rfl
@[simp] theorem aluToA_carry (sub : Bool) (s : State) : (aluToA sub s).carry = (alu s.a s.b sub).carry := rfl
@[simp] theorem aluToA_aluResult (sub : Bool) (s : State) : (aluToA sub s).aluResult = (alu s.a s.b sub).result := rfl
@[simp] theorem aluToA_stepCtr (sub : Bool) (s : State) : (aluToA sub s).stepCtr = s.stepCtr := rfl
@[simp] theorem aluToA_halted (sub : Bool) (s : State) : (aluToA sub s).halted = s.halted := rfl
@[simp] theorem aluToA_signals (sub : Bool) (s : State) : (aluToA sub s).signals = s.signals := rfl
@[simp] theorem aluToA_ram (sub : Bool) (s : State) : (aluToA sub s).ram = s.ram := rfl

@[simp] theorem aToOut_pc (s : State) : (aToOut s).pc = s.pc := rfl
@[simp] theorem aToOut_mar (s : State) : (aToOut s).mar = s.mar := rfl
@[simp] theorem aToOut_ir (s : State) : (aToOut s).ir = s.ir := rfl
@[simp] theorem aToOut_a (s : State) : (aToOut s).a = s.a := rfl
@[simp] theorem aToOut_b (s : State) : (aToOut s).b = s.b := rfl
@[simp] theorem aToOut_out (s : State) : (aToOut s).out = s.a := rfl
@[simp] theorem aToOut_bus (s : State) : (aToOut s).bus = s.a := rfl
@[simp] theorem aToOut_zero (s : State) : (aToOut s).zero = s.zero := rfl
@[simp] theorem aToOut_carry (s : State) : (aToOut s).carry = s.carry := rfl
@[simp] theorem aToOut_aluResult (s : State) : (aToOut s).aluResult = s.aluResult := rfl
@[simp] theorem aToOut_stepCtr (s : State) : (aToOut s).stepCtr = s.stepCtr := rfl
@[simp] theorem aToOut_halted (s : State) : (aToOut s).halted = s.halted := rfl
@[simp] theorem aToOut_signals (s : State) : (aToOut s).signals = s.signals := rfl
@[simp] theorem aToOut_ram (s : State) : (aToOut s).ram = s.ram := rfl

@[simp] theorem endCycle_pc (s : State) : (endCycle s).pc = s.pc := rfl
@[simp] theorem endCycle_mar (s : State) : (endCycle s).mar = s.mar := rfl
@[simp] theorem endCycle_ir (s : State) : (endCycle s).ir = s.ir := rfl
@[simp] theorem endCycle_a (s : State) : (endCycle s).a = s.a := rfl
@[simp] theorem endCycle_b (s : State) : (endCycle s).b = s.b := rfl
@[simp] theorem endCycle_out (s : State) : (endCycle s).out = s.out := rfl
@[simp] theorem endCycle_bus (s : State) : (endCycle s).bus = s.bus := rfl
@[simp] theorem endCycle_zero (s : State) : (endCycle s).zero = s.zero := rfl
@[simp] theorem endCycle_carry (s : State) : (endCycle s).carry = s.carry := rfl
@[simp] theorem endCycle_aluResult (s : State) : (endCycle s).aluResult = s.aluResult := rfl
@[simp] theorem endCycle_stepCtr (s : State) : (endCycle s).stepCtr = 0#3 := rfl
@[simp] theorem endCycle_halted (s : State) : (endCycle s).halted = s.halted := rfl
@[simp] theorem endCycle_signals (s : State) : (endCycle s).signals = noSignals := rfl
@[simp] theorem endCycle_ram (s : State) : (endCycle s).ram = s.ram := rfl

@[simp] theorem haltCycle_pc (s : State) : (haltCycle s).pc = s.pc := rfl
@[simp] theorem haltCycle_mar (s : State) : (haltCycle s).mar = s.mar := rfl
@[simp] theorem haltCycle_ir (s : State) : (haltCycle s).ir = s.ir := rfl
@[simp] theorem haltCycle_a (s : State) : (haltCycle s).a = s.a := rfl
@[simp] theorem haltCycle_b (s : State) : (haltCycle s).b = s.b := rfl
@[simp] theorem haltCycle_out (s : State) : (haltCycle s).out = s.out := rfl
@[simp] theorem haltCycle_bus (s : State) : (haltCycle s).bus = s.bus := rfl
@[simp] theorem haltCycle_zero (s : State) : (haltCycle s).zero = s.zero := rfl
@[simp] theorem haltCycle_carry (s : State) : (haltCycle s).carry = s.carry := rfl
@[simp] theorem haltCycle_aluResult (s : State) : (haltCycle s).aluResult = s.aluResult := rfl
@[simp] theorem haltCycle_stepCtr (s : State) : (haltCycle s).stepCtr = 4#3 := rfl
@[simp] theorem haltCycle_halted (s : State) : (haltCycle s).halted = true := rfl
@[simp] theorem haltCycle_signals (s : State) : (haltCycle s).signals = sigHalt := rfl
@[simp] theorem haltCycle_ram (s : State) : (haltCycle s).ram = s.ram := rfl

@[simp] theorem ramWrite_pc (addr val : Int) (s : State) : (ramWrite addr val s).pc = s.pc := rfl
@[simp] theorem ramWrite_mar (addr val : Int) (s : State) : (ramWrite addr val s).mar = s.mar := rfl
@[simp] theorem ramWrite_ir (addr val : Int) (s : State) : (ramWrite addr val s).ir = s.ir := rfl
@[simp] theorem ramWrite_a (addr val : Int) (s : State) : (ramWrite addr val s).a = s.a := rfl
@[simp] theorem ramWrite_b (addr val : Int) (s : State) : (ramWrite addr val s).b = s.b := rfl
@[simp] theorem ramWrite_out (addr val : Int) (s : State) : (ramWrite addr val s).out = s.out := rfl
@[simp] theorem ramWrite_bus (addr val : Int) (s : State) : (ramWrite addr val s).bus = s.bus := rfl
@[simp] theorem ramWrite_zero (addr val : Int) (s : State) : (ramWrite addr val s).zero = s.zero := rfl
@[simp] theorem ramWrite_carry (addr val : Int) (s : State) : (ramWrite addr val s).carry = s.carry := rfl
@[simp] theorem ramWrite_aluResult (addr val : Int) (s : State) : (ramWrite addr val s).aluResult = s.aluResult := rfl
@[simp] theorem ramWrite_stepCtr (addr val : Int) (s : State) : (ramWrite addr val s).stepCtr = s.stepCtr := rfl
@[simp] theorem ramWrite_halted (addr val : Int) (s : State) : (ramWrite addr val s).halted = s.halted := rfl
@[simp] theorem ramWrite_signals (addr val : Int) (s : State) : (ramWrite addr val s).signals = s.signals := rfl
@[simp] theorem ramWrite_ram (addr val : Int) (s : State) : (ramWrite addr val s).ram = memWrite s.ram (mask4 addr) (mask4 val) := rfl

@[simp] theorem resetEvent_pc (s : State) : (resetEvent s).pc = 0#4 := rfl
@[simp] theorem resetEvent_mar (s : State) : (resetEvent s).mar = 0#4 := rfl
@[simp] theorem resetEvent_ir (s : State) : (resetEvent s).ir = 0#4 := rfl
@[simp] theorem resetEvent_a (s : State) : (resetEvent s).a = 0#4 := rfl
@[simp] theorem resetEvent_b (s : State) : (resetEvent s).b = 0#4 := rfl
@[simp] theorem resetEvent_out (s : State) : (resetEvent s).out = 0#4 := rfl
@[simp] theorem resetEvent_bus (s : State) : (resetEvent s).bus = 0#4 := rfl
@[simp] theorem resetEvent_zero (s : State) : (resetEvent s).zero = false := rfl
@[simp] theorem resetEvent_carry (s : State) : (resetEvent s).carry = false := rfl
@[simp] theorem resetEvent_aluResult (s : State) : (resetEvent s).aluResult = 0#4 := rfl
@[simp] theorem resetEvent_stepCtr (s : State) : (resetEvent s).stepCtr = 0#3 := rfl
@[simp] theorem resetEvent_halted (s : State) : (resetEvent s).halted = false := rfl
@[simp] theorem resetEvent_signals (s : State) : (resetEvent s).signals = noSignals := rfl
@[simp] theorem resetEvent_ram (s : State) : (resetEvent s).ram = s.ram := rfl

@[simp] theorem placeAtPc_pc (op q : Nibble) (s : State) : (placeAtPc op q s).pc = s.pc := rfl
@[simp] theorem placeAtPc_mar (op q : Nibble) (s : State) : (placeAtPc op q s).mar = s.mar := rfl
@[simp] theorem placeAtPc_ir (op q : Nibble) (s : State) : (placeAtPc op q s).ir = s.ir := rfl
@[simp] theorem placeAtPc_a (op q : Nibble) (s : State) : (placeAtPc op q s).a = s.a := rfl
@[simp] theorem placeAtPc_b (op q : Nibble) (s : State) : (placeAtPc op q s).b = s.b := rfl
@[simp] theorem placeAtPc_out (op q : Nibble) (s : State) : (placeAtPc op q s).out = s.out := rfl
@[simp] theorem placeAtPc_bus (op q : Nibble) (s : State) : (placeAtPc op q s).bus = s.bus := rfl
@[simp] theorem placeAtPc_zero (op q : Nibble) (s : State) : (placeAtPc op q s).zero = s.zero := rfl
@[simp] theorem placeAtPc_carry (op q : Nibble) (s : State) : (placeAtPc op q s).carry = s.carry := rfl
@[simp] theorem placeAtPc_aluResult (op q : Nibble) (s : State) : (placeAtPc op q s).aluResult = s.aluResult := rfl
@[simp] theorem placeAtPc_stepCtr (op q : Nibble) (s : State) : (placeAtPc op q s).stepCtr = 0#3 := rfl
@[simp] theorem placeAtPc_halted (op q : Nibble) (s : State) : (placeAtPc op q s).halted = false := rfl
@[simp] theorem placeAtPc_signals (op q : Nibble) (s : State) : (placeAtPc op q s).signals = s.signals := rfl
@[simp] theorem placeAtPc_ram (op q : Nibble) (s : State) : (placeAtPc op q s).ram = memWrite (memWrite s.ram s.pc op) (regIncrement s.pc) q := rfl

end Sys2Proof.Machine
end

