-- ==== Sys2Proof/Laws/Tick.lean ====
section
/-!
SUPPORT. What a tick can do, said once: the halted tick, the running tick, the effect of each signal set the decoder emits
(spec/40_control_unit.md R115), and sequences of ticks.
-/

namespace Sys2Proof.Machine

@[simp] theorem onSignal_true (f : State → State) (s : State) : onSignal true f s = f s := rfl
@[simp] theorem onSignal_false (f : State → State) (s : State) : onSignal false f s = s := rfl

/-- What any observation of a conditional effect gives. -/
theorem onSignal_apply {α : Type} (φ : State → α) (b : Bool) (f : State → State) (s : State) :
    φ (onSignal b f s) = if b then φ (f s) else φ s := by
  cases b <;> rfl

/-! ### The effect of each set of R115 -/

@[simp] theorem applyPhases_idle (s : State) : applyPhases noSignals s = s := rfl
@[simp] theorem applyPhases_addressByPc (s : State) : applyPhases sigAddressByPc s = { s with bus := s.pc, mar := s.pc } := rfl
@[simp] theorem applyPhases_count (s : State) : applyPhases sigCount s = { s with pc := regIncrement s.pc } := rfl
@[simp] theorem applyPhases_fetch (s : State) :
    applyPhases sigFetch s = { s with bus := memRead s.ram s.mar, ir := memRead s.ram s.mar } := rfl
@[simp] theorem applyPhases_operandToMar (s : State) : applyPhases sigOperandToMar s =
    { s with bus := memRead s.ram s.mar, mar := memRead s.ram s.mar, pc := regIncrement s.pc } := rfl
@[simp] theorem applyPhases_operandToA (s : State) : applyPhases sigOperandToA s =
    { s with bus := memRead s.ram s.mar, a := memRead s.ram s.mar, pc := regIncrement s.pc } := rfl
@[simp] theorem applyPhases_operandToPc (s : State) :
    applyPhases sigOperandToPc s = { s with bus := memRead s.ram s.mar, pc := memRead s.ram s.mar } := rfl
@[simp] theorem applyPhases_operandDropped (s : State) :
    applyPhases sigOperandDropped s = { s with bus := memRead s.ram s.mar, pc := regIncrement s.pc } := rfl
@[simp] theorem applyPhases_cellToA (s : State) :
    applyPhases sigCellToA s = { s with bus := memRead s.ram s.mar, a := memRead s.ram s.mar } := rfl
@[simp] theorem applyPhases_cellToB (s : State) :
    applyPhases sigCellToB s = { s with bus := memRead s.ram s.mar, b := memRead s.ram s.mar } := rfl
@[simp] theorem applyPhases_aToCell (s : State) :
    applyPhases sigAToCell s = { s with bus := s.a, ram := memWrite s.ram s.mar s.a } := rfl
@[simp] theorem applyPhases_aluToA (s : State) : applyPhases sigAluToA s = aluToA false s := rfl
@[simp] theorem applyPhases_aluToA_subtract (s : State) : applyPhases (withSubtract true sigAluToA) s = aluToA true s := rfl
@[simp] theorem applyPhases_aToOut (s : State) : applyPhases sigAToOut s = { s with bus := s.a, out := s.a } := rfl
@[simp] theorem applyPhases_halt (s : State) : applyPhases sigHalt s = { s with halted := true } := rfl

/-- Subtract does nothing on a tick without AluOut (R98). -/
theorem applyPhases_withSubtract (b : Bool) {g : SignalSet} (h : g.aluOut = false) (s : State) :
    applyPhases (withSubtract b g) s = applyPhases g s := by
  cases g
  simp_all [applyPhases, applyProducers, applyConsumers, applyLast, withSubtract]

@[simp] theorem applyPhases_addressByPc_subtract (b : Bool) (s : State) :
    applyPhases (withSubtract b sigAddressByPc) s = applyPhases sigAddressByPc s := rfl
@[simp] theorem applyPhases_operandToMar_subtract (b : Bool) (s : State) :
    applyPhases (withSubtract b sigOperandToMar) s = applyPhases sigOperandToMar s := rfl
@[simp] theorem applyPhases_cellToB_subtract (b : Bool) (s : State) :
    applyPhases (withSubtract b sigCellToB) s = applyPhases sigCellToB s := rfl

/-! ### The tick -/

theorem tick_of_halted {s : State} (h : s.halted = true) : tick s = s := by
  simp [tick, h]

theorem tick_of_running {s : State} (h : s.halted = false) :
    tick s = advanceStep (applyPhases (tickSignals s) (recordSignals (tickSignals s) s)) := by
  simp [tick, h]

/-- A running tick whose signal set is known. -/
theorem tick_with {s : State} {g : SignalSet} (h : s.halted = false) (hg : tickSignals s = g) :
    tick s = advanceStep (applyPhases g (recordSignals g s)) := by
  rw [tick_of_running h, hg]

/-- A tick of SUB's steps 3 to 5 does what the same set without Subtract does, but for the record (R98). -/
theorem tick_with_subtract {s : State} {b : Bool} {g : SignalSet} (h : s.halted = false) (hg : tickSignals s = withSubtract b g)
    (hu : g.aluOut = false) : tick s = advanceStep (applyPhases g (recordSignals (withSubtract b g) s)) := by
  rw [tick_with h hg, applyPhases_withSubtract b hu]

/-! ### A running tick, set by set -/

theorem tick_addressByPc {s : State} (h : s.halted = false) (hg : tickSignals s = sigAddressByPc) :
    tick s = { s with bus := s.pc, mar := s.pc, signals := tickSignals s, stepCtr := s.stepCtr + 1#3 } := by
  rw [tick_with h hg, hg]
  rfl

theorem tick_addressByPc_subtract {s : State} {b : Bool} (h : s.halted = false) (hg : tickSignals s = withSubtract b sigAddressByPc) :
    tick s = { s with bus := s.pc, mar := s.pc, signals := tickSignals s, stepCtr := s.stepCtr + 1#3 } := by
  rw [tick_with h hg, hg]
  rfl

theorem tick_count {s : State} (h : s.halted = false) (hg : tickSignals s = sigCount) :
    tick s = { s with pc := regIncrement s.pc, signals := tickSignals s, stepCtr := s.stepCtr + 1#3 } := by
  rw [tick_with h hg, hg]
  rfl

theorem tick_fetch {s : State} (h : s.halted = false) (hg : tickSignals s = sigFetch) :
    tick s = { s with bus := memRead s.ram s.mar, ir := memRead s.ram s.mar, signals := tickSignals s, stepCtr := s.stepCtr + 1#3 } := by
  rw [tick_with h hg, hg]
  rfl

theorem tick_operandToMar {s : State} (h : s.halted = false) (hg : tickSignals s = sigOperandToMar) :
    tick s = { s with bus := memRead s.ram s.mar, mar := memRead s.ram s.mar, pc := regIncrement s.pc, signals := tickSignals s, stepCtr := s.stepCtr + 1#3 } := by
  rw [tick_with h hg, hg]
  rfl

theorem tick_operandToMar_subtract {s : State} {b : Bool} (h : s.halted = false) (hg : tickSignals s = withSubtract b sigOperandToMar) :
    tick s = { s with bus := memRead s.ram s.mar, mar := memRead s.ram s.mar, pc := regIncrement s.pc, signals := tickSignals s, stepCtr := s.stepCtr + 1#3 } := by
  rw [tick_with h hg, hg]
  rfl

theorem tick_operandToA {s : State} (h : s.halted = false) (hg : tickSignals s = sigOperandToA) :
    tick s = { s with bus := memRead s.ram s.mar, a := memRead s.ram s.mar, pc := regIncrement s.pc, signals := tickSignals s, stepCtr := s.stepCtr + 1#3 } := by
  rw [tick_with h hg, hg]
  rfl

theorem tick_operandToPc {s : State} (h : s.halted = false) (hg : tickSignals s = sigOperandToPc) :
    tick s = { s with bus := memRead s.ram s.mar, pc := memRead s.ram s.mar, signals := tickSignals s, stepCtr := s.stepCtr + 1#3 } := by
  rw [tick_with h hg, hg]
  rfl

theorem tick_operandDropped {s : State} (h : s.halted = false) (hg : tickSignals s = sigOperandDropped) :
    tick s = { s with bus := memRead s.ram s.mar, pc := regIncrement s.pc, signals := tickSignals s, stepCtr := s.stepCtr + 1#3 } := by
  rw [tick_with h hg, hg]
  rfl

theorem tick_cellToA {s : State} (h : s.halted = false) (hg : tickSignals s = sigCellToA) :
    tick s = { s with bus := memRead s.ram s.mar, a := memRead s.ram s.mar, signals := tickSignals s, stepCtr := s.stepCtr + 1#3 } := by
  rw [tick_with h hg, hg]
  rfl

theorem tick_cellToB {s : State} (h : s.halted = false) (hg : tickSignals s = sigCellToB) :
    tick s = { s with bus := memRead s.ram s.mar, b := memRead s.ram s.mar, signals := tickSignals s, stepCtr := s.stepCtr + 1#3 } := by
  rw [tick_with h hg, hg]
  rfl

theorem tick_cellToB_subtract {s : State} {b : Bool} (h : s.halted = false) (hg : tickSignals s = withSubtract b sigCellToB) :
    tick s = { s with bus := memRead s.ram s.mar, b := memRead s.ram s.mar, signals := tickSignals s, stepCtr := s.stepCtr + 1#3 } := by
  rw [tick_with h hg, hg]
  rfl

theorem tick_aToCell {s : State} (h : s.halted = false) (hg : tickSignals s = sigAToCell) :
    tick s = { s with bus := s.a, ram := memWrite s.ram s.mar s.a, signals := tickSignals s, stepCtr := s.stepCtr + 1#3 } := by
  rw [tick_with h hg, hg]
  rfl

theorem tick_aluAdd {s : State} (h : s.halted = false) (hg : tickSignals s = sigAluToA) :
    tick s = {
      s with bus := (aluAdd s.a s.b).result, a := (aluAdd s.a s.b).result, aluResult := (aluAdd s.a s.b).result, zero := (aluAdd s.a s.b).zero, carry := (aluAdd s.a s.b).carry, signals := tickSignals s, stepCtr := s.stepCtr + 1#3 } := by
  rw [tick_with h hg, hg]
  rfl

theorem tick_aluSub {s : State} (h : s.halted = false) (hg : tickSignals s = withSubtract true sigAluToA) :
    tick s = {
      s with bus := (aluSub s.a s.b).result, a := (aluSub s.a s.b).result, aluResult := (aluSub s.a s.b).result, zero := (aluSub s.a s.b).zero, carry := (aluSub s.a s.b).carry, signals := tickSignals s, stepCtr := s.stepCtr + 1#3 } := by
  rw [tick_with h hg, hg]
  rfl

theorem tick_aToOut {s : State} (h : s.halted = false) (hg : tickSignals s = sigAToOut) :
    tick s = { s with bus := s.a, out := s.a, signals := tickSignals s, stepCtr := s.stepCtr + 1#3 } := by
  rw [tick_with h hg, hg]
  rfl

theorem tick_halt {s : State} (h : s.halted = false) (hg : tickSignals s = sigHalt) :
    tick s = { s with halted := true, signals := tickSignals s, stepCtr := s.stepCtr + 1#3 } := by
  rw [tick_with h hg, hg]
  rfl

theorem tick_idle {s : State} (h : s.halted = false) (hg : tickSignals s = noSignals) :
    tick s = { s with signals := tickSignals s, stepCtr := s.stepCtr + 1#3 } := by
  rw [tick_with h hg, hg]
  rfl

/-- What a running tick can be (R115): one constructor for each effect, with the step and opcode it belongs to. -/
inductive TickCase (s : State) : State → Prop where
  | addressByPc (site : s.stepCtr = 0#3 ∨ s.stepCtr = 3#3 ∧ s.ir ∈ [0x1#4, 0x2#4, 0x3#4, 0x4#4, 0x5#4, 0x6#4, 0x7#4, 0x8#4]) :
      TickCase s { s with bus := s.pc, mar := s.pc, signals := tickSignals s, stepCtr := s.stepCtr + 1#3 }
  | count (site : s.stepCtr = 1#3) :
      TickCase s { s with pc := regIncrement s.pc, signals := tickSignals s, stepCtr := s.stepCtr + 1#3 }
  | fetch (site : s.stepCtr = 2#3) :
      TickCase s { s with bus := memRead s.ram s.mar, ir := memRead s.ram s.mar, signals := tickSignals s, stepCtr := s.stepCtr + 1#3 }
  | operandToMar (site : s.stepCtr = 4#3 ∧ s.ir ∈ [0x1#4, 0x2#4, 0x3#4, 0x4#4]) :
      TickCase s { s with bus := memRead s.ram s.mar, mar := memRead s.ram s.mar, pc := regIncrement s.pc, signals := tickSignals s, stepCtr := s.stepCtr + 1#3 }
  | operandToA (site : s.stepCtr = 4#3 ∧ s.ir = 0x5#4) :
      TickCase s { s with bus := memRead s.ram s.mar, a := memRead s.ram s.mar, pc := regIncrement s.pc, signals := tickSignals s, stepCtr := s.stepCtr + 1#3 }
  | operandToPc (site : s.stepCtr = 4#3 ∧ (s.ir = 0x6#4 ∨ s.ir = 0x7#4 ∧ s.carry = true ∨ s.ir = 0x8#4 ∧ s.zero = true)) :
      TickCase s { s with bus := memRead s.ram s.mar, pc := memRead s.ram s.mar, signals := tickSignals s, stepCtr := s.stepCtr + 1#3 }
  | operandDropped (site : s.stepCtr = 4#3 ∧ (s.ir = 0x7#4 ∧ s.carry = false ∨ s.ir = 0x8#4 ∧ s.zero = false)) :
      TickCase s { s with bus := memRead s.ram s.mar, pc := regIncrement s.pc, signals := tickSignals s, stepCtr := s.stepCtr + 1#3 }
  | cellToA (site : s.stepCtr = 5#3 ∧ s.ir = 0x1#4) :
      TickCase s { s with bus := memRead s.ram s.mar, a := memRead s.ram s.mar, signals := tickSignals s, stepCtr := s.stepCtr + 1#3 }
  | cellToB (site : s.stepCtr = 5#3 ∧ s.ir ∈ [0x2#4, 0x3#4]) :
      TickCase s { s with bus := memRead s.ram s.mar, b := memRead s.ram s.mar, signals := tickSignals s, stepCtr := s.stepCtr + 1#3 }
  | aToCell (site : s.stepCtr = 5#3 ∧ s.ir = 0x4#4) :
      TickCase s { s with bus := s.a, ram := memWrite s.ram s.mar s.a, signals := tickSignals s, stepCtr := s.stepCtr + 1#3 }
  | aluAdd (site : s.stepCtr = 6#3 ∧ s.ir = 0x2#4) :
      TickCase s {
      s with bus := (aluAdd s.a s.b).result, a := (aluAdd s.a s.b).result, aluResult := (aluAdd s.a s.b).result, zero := (aluAdd s.a s.b).zero, carry := (aluAdd s.a s.b).carry, signals := tickSignals s, stepCtr := s.stepCtr + 1#3 }
  | aluSub (site : s.stepCtr = 6#3 ∧ s.ir = 0x3#4) :
      TickCase s {
      s with bus := (aluSub s.a s.b).result, a := (aluSub s.a s.b).result, aluResult := (aluSub s.a s.b).result, zero := (aluSub s.a s.b).zero, carry := (aluSub s.a s.b).carry, signals := tickSignals s, stepCtr := s.stepCtr + 1#3 }
  | aToOut (site : s.stepCtr = 3#3 ∧ s.ir = 0xE#4) :
      TickCase s { s with bus := s.a, out := s.a, signals := tickSignals s, stepCtr := s.stepCtr + 1#3 }
  | halt (site : s.stepCtr = 3#3 ∧ s.ir = 0xF#4) :
      TickCase s { s with halted := true, signals := tickSignals s, stepCtr := s.stepCtr + 1#3 }
  | idle (site : 3 ≤ s.stepCtr.toNat ∧ s.ir ∈ [0x0#4, 0x9#4, 0xA#4, 0xB#4, 0xC#4, 0xD#4] ∨ 4 ≤ s.stepCtr.toNat ∧ s.ir ∈ [0xE#4, 0xF#4] ∨
      5 ≤ s.stepCtr.toNat ∧ s.ir ∈ [0x5#4, 0x6#4, 0x7#4, 0x8#4] ∨ 6 ≤ s.stepCtr.toNat ∧ s.ir ∈ [0x1#4, 0x4#4] ∨
      7 ≤ s.stepCtr.toNat ∧ s.ir ∈ [0x2#4, 0x3#4]) :
      TickCase s { s with signals := tickSignals s, stepCtr := s.stepCtr + 1#3 }

theorem tickCase_step0 {s : State} (h : s.halted = false) (k : s.stepCtr = 0#3) : TickCase s (tick s) := by
  rw [tick_addressByPc h (by simp [tickSignals, k])]
  exact .addressByPc (.inl k)

theorem tickCase_step1 {s : State} (h : s.halted = false) (k : s.stepCtr = 1#3) : TickCase s (tick s) := by
  rw [tick_count h (by simp [tickSignals, k])]
  exact .count k

theorem tickCase_step2 {s : State} (h : s.halted = false) (k : s.stepCtr = 2#3) : TickCase s (tick s) := by
  rw [tick_fetch h (by simp [tickSignals, k])]
  exact .fetch k

theorem tickCase_step3 {s : State} (h : s.halted = false) (k : s.stepCtr = 3#3) : TickCase s (tick s) := by
  rcases opcode_cases s.ir with e | e | e | e | e | e | e | e | e | e | e | e | e | e | e | e
  · rw [tick_idle h (by simp [tickSignals, k, e])]
    exact .idle (by simp [k, e])
  · rw [tick_addressByPc h (by simp [tickSignals, k, e])]
    exact .addressByPc (by simp [k, e])
  · rw [tick_addressByPc h (by simp [tickSignals, k, e])]
    exact .addressByPc (by simp [k, e])
  · rw [tick_addressByPc_subtract h (by simp [tickSignals, k, e]; rfl)]
    exact .addressByPc (by simp [k, e])
  · rw [tick_addressByPc h (by simp [tickSignals, k, e])]
    exact .addressByPc (by simp [k, e])
  · rw [tick_addressByPc h (by simp [tickSignals, k, e])]
    exact .addressByPc (by simp [k, e])
  · rw [tick_addressByPc h (by simp [tickSignals, k, e])]
    exact .addressByPc (by simp [k, e])
  · rw [tick_addressByPc h (by simp [tickSignals, k, e])]
    exact .addressByPc (by simp [k, e])
  · rw [tick_addressByPc h (by simp [tickSignals, k, e])]
    exact .addressByPc (by simp [k, e])
  · rw [tick_idle h (by simp [tickSignals, k, e])]
    exact .idle (by simp [k, e])
  · rw [tick_idle h (by simp [tickSignals, k, e])]
    exact .idle (by simp [k, e])
  · rw [tick_idle h (by simp [tickSignals, k, e])]
    exact .idle (by simp [k, e])
  · rw [tick_idle h (by simp [tickSignals, k, e])]
    exact .idle (by simp [k, e])
  · rw [tick_idle h (by simp [tickSignals, k, e])]
    exact .idle (by simp [k, e])
  · rw [tick_aToOut h (by simp [tickSignals, k, e])]
    exact .aToOut (by simp [k, e])
  · rw [tick_halt h (by simp [tickSignals, k, e])]
    exact .halt (by simp [k, e])

theorem tickCase_step4 {s : State} (h : s.halted = false) (k : s.stepCtr = 4#3) : TickCase s (tick s) := by
  rcases opcode_cases s.ir with e | e | e | e | e | e | e | e | e | e | e | e | e | e | e | e
  · rw [tick_idle h (by simp [tickSignals, k, e])]
    exact .idle (by simp [k, e])
  · rw [tick_operandToMar h (by simp [tickSignals, k, e])]
    exact .operandToMar (by simp [k, e])
  · rw [tick_operandToMar h (by simp [tickSignals, k, e])]
    exact .operandToMar (by simp [k, e])
  · rw [tick_operandToMar_subtract h (by simp [tickSignals, k, e]; rfl)]
    exact .operandToMar (by simp [k, e])
  · rw [tick_operandToMar h (by simp [tickSignals, k, e])]
    exact .operandToMar (by simp [k, e])
  · rw [tick_operandToA h (by simp [tickSignals, k, e])]
    exact .operandToA (by simp [k, e])
  · rw [tick_operandToPc h (by simp [tickSignals, k, e])]
    exact .operandToPc (by simp [k, e])
  · cases f : s.carry with
    | true =>
      rw [tick_operandToPc h (by simp [tickSignals, k, e, f])]
      exact .operandToPc (by simp [k, e, f])
    | false =>
      rw [tick_operandDropped h (by simp [tickSignals, k, e, f])]
      exact .operandDropped (by simp [k, e, f])
  · cases f : s.zero with
    | true =>
      rw [tick_operandToPc h (by simp [tickSignals, k, e, f])]
      exact .operandToPc (by simp [k, e, f])
    | false =>
      rw [tick_operandDropped h (by simp [tickSignals, k, e, f])]
      exact .operandDropped (by simp [k, e, f])
  · rw [tick_idle h (by simp [tickSignals, k, e])]
    exact .idle (by simp [k, e])
  · rw [tick_idle h (by simp [tickSignals, k, e])]
    exact .idle (by simp [k, e])
  · rw [tick_idle h (by simp [tickSignals, k, e])]
    exact .idle (by simp [k, e])
  · rw [tick_idle h (by simp [tickSignals, k, e])]
    exact .idle (by simp [k, e])
  · rw [tick_idle h (by simp [tickSignals, k, e])]
    exact .idle (by simp [k, e])
  · rw [tick_idle h (by simp [tickSignals, k, e])]
    exact .idle (by simp [k, e])
  · rw [tick_idle h (by simp [tickSignals, k, e])]
    exact .idle (by simp [k, e])

theorem tickCase_step5 {s : State} (h : s.halted = false) (k : s.stepCtr = 5#3) : TickCase s (tick s) := by
  rcases opcode_cases s.ir with e | e | e | e | e | e | e | e | e | e | e | e | e | e | e | e
  · rw [tick_idle h (by simp [tickSignals, k, e])]
    exact .idle (by simp [k, e])
  · rw [tick_cellToA h (by simp [tickSignals, k, e])]
    exact .cellToA (by simp [k, e])
  · rw [tick_cellToB h (by simp [tickSignals, k, e])]
    exact .cellToB (by simp [k, e])
  · rw [tick_cellToB_subtract h (by simp [tickSignals, k, e]; rfl)]
    exact .cellToB (by simp [k, e])
  · rw [tick_aToCell h (by simp [tickSignals, k, e])]
    exact .aToCell (by simp [k, e])
  · rw [tick_idle h (by simp [tickSignals, k, e])]
    exact .idle (by simp [k, e])
  · rw [tick_idle h (by simp [tickSignals, k, e])]
    exact .idle (by simp [k, e])
  · rw [tick_idle h (by simp [tickSignals, k, e])]
    exact .idle (by simp [k, e])
  · rw [tick_idle h (by simp [tickSignals, k, e])]
    exact .idle (by simp [k, e])
  · rw [tick_idle h (by simp [tickSignals, k, e])]
    exact .idle (by simp [k, e])
  · rw [tick_idle h (by simp [tickSignals, k, e])]
    exact .idle (by simp [k, e])
  · rw [tick_idle h (by simp [tickSignals, k, e])]
    exact .idle (by simp [k, e])
  · rw [tick_idle h (by simp [tickSignals, k, e])]
    exact .idle (by simp [k, e])
  · rw [tick_idle h (by simp [tickSignals, k, e])]
    exact .idle (by simp [k, e])
  · rw [tick_idle h (by simp [tickSignals, k, e])]
    exact .idle (by simp [k, e])
  · rw [tick_idle h (by simp [tickSignals, k, e])]
    exact .idle (by simp [k, e])

theorem tickCase_step6 {s : State} (h : s.halted = false) (k : s.stepCtr = 6#3) : TickCase s (tick s) := by
  rcases opcode_cases s.ir with e | e | e | e | e | e | e | e | e | e | e | e | e | e | e | e
  · rw [tick_idle h (by simp [tickSignals, k, e])]
    exact .idle (by simp [k, e])
  · rw [tick_idle h (by simp [tickSignals, k, e])]
    exact .idle (by simp [k, e])
  · rw [tick_aluAdd h (by simp [tickSignals, k, e])]
    exact .aluAdd (by simp [k, e])
  · rw [tick_aluSub h (by simp [tickSignals, k, e])]
    exact .aluSub (by simp [k, e])
  · rw [tick_idle h (by simp [tickSignals, k, e])]
    exact .idle (by simp [k, e])
  · rw [tick_idle h (by simp [tickSignals, k, e])]
    exact .idle (by simp [k, e])
  · rw [tick_idle h (by simp [tickSignals, k, e])]
    exact .idle (by simp [k, e])
  · rw [tick_idle h (by simp [tickSignals, k, e])]
    exact .idle (by simp [k, e])
  · rw [tick_idle h (by simp [tickSignals, k, e])]
    exact .idle (by simp [k, e])
  · rw [tick_idle h (by simp [tickSignals, k, e])]
    exact .idle (by simp [k, e])
  · rw [tick_idle h (by simp [tickSignals, k, e])]
    exact .idle (by simp [k, e])
  · rw [tick_idle h (by simp [tickSignals, k, e])]
    exact .idle (by simp [k, e])
  · rw [tick_idle h (by simp [tickSignals, k, e])]
    exact .idle (by simp [k, e])
  · rw [tick_idle h (by simp [tickSignals, k, e])]
    exact .idle (by simp [k, e])
  · rw [tick_idle h (by simp [tickSignals, k, e])]
    exact .idle (by simp [k, e])
  · rw [tick_idle h (by simp [tickSignals, k, e])]
    exact .idle (by simp [k, e])

theorem tickCase_step7 {s : State} (h : s.halted = false) (k : s.stepCtr = 7#3) : TickCase s (tick s) := by
  rcases opcode_cases s.ir with e | e | e | e | e | e | e | e | e | e | e | e | e | e | e | e
  · rw [tick_idle h (by simp [tickSignals, k, e])]
    exact .idle (by simp [k, e])
  · rw [tick_idle h (by simp [tickSignals, k, e])]
    exact .idle (by simp [k, e])
  · rw [tick_idle h (by simp [tickSignals, k, e])]
    exact .idle (by simp [k, e])
  · rw [tick_idle h (by simp [tickSignals, k, e])]
    exact .idle (by simp [k, e])
  · rw [tick_idle h (by simp [tickSignals, k, e])]
    exact .idle (by simp [k, e])
  · rw [tick_idle h (by simp [tickSignals, k, e])]
    exact .idle (by simp [k, e])
  · rw [tick_idle h (by simp [tickSignals, k, e])]
    exact .idle (by simp [k, e])
  · rw [tick_idle h (by simp [tickSignals, k, e])]
    exact .idle (by simp [k, e])
  · rw [tick_idle h (by simp [tickSignals, k, e])]
    exact .idle (by simp [k, e])
  · rw [tick_idle h (by simp [tickSignals, k, e])]
    exact .idle (by simp [k, e])
  · rw [tick_idle h (by simp [tickSignals, k, e])]
    exact .idle (by simp [k, e])
  · rw [tick_idle h (by simp [tickSignals, k, e])]
    exact .idle (by simp [k, e])
  · rw [tick_idle h (by simp [tickSignals, k, e])]
    exact .idle (by simp [k, e])
  · rw [tick_idle h (by simp [tickSignals, k, e])]
    exact .idle (by simp [k, e])
  · rw [tick_idle h (by simp [tickSignals, k, e])]
    exact .idle (by simp [k, e])
  · rw [tick_idle h (by simp [tickSignals, k, e])]
    exact .idle (by simp [k, e])

/-- Every running tick is one of the cases of R115. -/
theorem tick_cases {s : State} (h : s.halted = false) : TickCase s (tick s) := by
  rcases stepNo_cases s.stepCtr with k | k | k | k | k | k | k | k
  · exact tickCase_step0 h k
  · exact tickCase_step1 h k
  · exact tickCase_step2 h k
  · exact tickCase_step3 h k
  · exact tickCase_step4 h k
  · exact tickCase_step5 h k
  · exact tickCase_step6 h k
  · exact tickCase_step7 h k

/-! ### Sequences of ticks -/

@[simp] theorem tickN_zero (s : State) : tickN 0 s = s := rfl
@[simp] theorem tickN_succ (n : Nat) (s : State) : tickN (n + 1) s = tickN n (tick s) := rfl

theorem tickN_add (m n : Nat) (s : State) : tickN (m + n) s = tickN n (tickN m s) := by
  induction m generalizing s with
  | zero => simp
  | succ m ih => rw [Nat.succ_add, tickN_succ, ih, tickN_succ]

theorem tickN_of_halted (n : Nat) {s : State} (h : s.halted = true) : tickN n s = s := by
  induction n with
  | zero => rfl
  | succ n ih => rw [tickN_succ, tick_of_halted h, ih]

/-! ### The step -/

theorem step_of_halted {s : State} (h : s.halted = true) : step s = .next s := by
  simp [step, h]

theorem step_at_boundary {s : State} (h : s.halted = false) (h0 : s.stepCtr = 0#3) : step s = exec (fetchInstr s) s := by
  simp [step, h, h0]

theorem step_in_cycle {s : State} (h : s.halted = false) (h0 : s.stepCtr ≠ 0#3) : step s = .next (finishCycle s) := by
  simp [step, h, h0]

/-- The three things a step can be. -/
theorem step_cases (s : State) :
    (s.halted = true ∧ step s = .next s) ∨
    (s.halted = false ∧ s.stepCtr = 0#3 ∧ step s = exec (fetchInstr s) s) ∨
    (s.halted = false ∧ s.stepCtr ≠ 0#3 ∧ step s = .next (finishCycle s)) := by
  cases h : s.halted with
  | true => exact .inl ⟨rfl, step_of_halted h⟩
  | false =>
    by_cases h0 : s.stepCtr = 0#3
    · exact .inr (.inl ⟨rfl, h0, step_at_boundary h h0⟩)
    · exact .inr (.inr ⟨rfl, h0, step_in_cycle h h0⟩)

end Sys2Proof.Machine
end

