-- ==== Sys2Proof/Tests/Slice0.lean ====
section
/-!
SUPPORT. Small checks against the vectors of spec/95_test_vectors.md (S, T, V and H numbers), the decoding of words written
out from spec/30_encoding.md R65, and for each statement with hypotheses a witness that meets them.
-/

namespace Sys2Proof.Tests

open Sys2Proof.Machine

/-! ### Helpers -/

/-- The `Reset` state with the listed cells set. -/
def loaded (cells : List (Nibble × Nibble)) : State :=
  { State.reset with ram := cells.foldl (fun m c => memWrite m c.1 c.2) [] }

/-- The state an outcome answers, if it is a next state. -/
def nextOf : Host.Outcome State Fault Refusal → Option State
  | .next t => some t
  | .fault _ => none
  | .refused _ => none

/-- The refusal an outcome answers. -/
def refusalOf : Host.Outcome State Fault Refusal → Option Refusal
  | .next _ => none
  | .fault _ => none
  | .refused r => some r

/-- One observation of the state after one step. -/
def afterStep {α : Type} (f : State → α) (s : State) : Option α := (nextOf (step s)).map f

/-! ### Well-formedness -/

theorem test_every_opcode_and_operand_is_wellFormed : ∀ op q : Nibble, WellFormed (decodePair op q) = true := by decide

theorem test_image_of_16_fits : imageFits (List.replicate 16 15) = true := by decide

theorem test_image_of_17_is_illFormed : imageFits (List.replicate 17 0) = false := by decide

theorem test_image_value_16_is_illFormed : imageInRange [0, 15, 16] = false := by decide

theorem test_image_value_negative_is_illFormed : imageInRange [-1] = false := by decide

theorem test_wellFormedImage_checks_both :
    WellFormedImage (List.replicate 17 0) = false ∧ WellFormedImage [16] = false ∧ WellFormedImage [15] = true := by decide

/-! ### Decoding: the words of R65, written out bit by bit -/

theorem test_decode_format_N :
    decode [0b0000#4] = .ok (.nop, []) ∧ decode [0b1001#4] = .ok (.rsv9, []) ∧ decode [0b1010#4] = .ok (.rsvA, []) ∧
    decode [0b1011#4] = .ok (.rsvB, []) ∧ decode [0b1100#4] = .ok (.rsvC, []) ∧ decode [0b1101#4] = .ok (.rsvD, []) ∧
    decode [0b1110#4] = .ok (.out, []) ∧ decode [0b1111#4] = .ok (.hlt, []) :=
  ⟨rfl, rfl, rfl, rfl, rfl, rfl, rfl, rfl⟩

theorem test_decode_format_M :
    decode [0b0001#4, 0b1101#4] = .ok (.lda 13#4, []) ∧ decode [0b0010#4, 0b1110#4] = .ok (.add 14#4, []) ∧
    decode [0b0011#4, 0b0001#4] = .ok (.sub 1#4, []) ∧ decode [0b0100#4, 0b0010#4] = .ok (.sta 2#4, []) ∧
    decode [0b0101#4, 0b0101#4] = .ok (.ldi 5#4, []) ∧ decode [0b0110#4, 0b0100#4] = .ok (.jmp 4#4, []) ∧
    decode [0b0111#4, 0b1000#4] = .ok (.jc 8#4, []) ∧ decode [0b1000#4, 0b0111#4] = .ok (.jz 7#4, []) :=
  ⟨rfl, rfl, rfl, rfl, rfl, rfl, rfl, rfl⟩

/-- The table's numbering: the opcode in bits 3 to 0, the operand in bits 7 to 4. -/
theorem test_decode_table_words :
    decodeTableWord 8 0b0000_0000 = some .nop ∧ decodeTableWord 8 0b1101_0001 = some (.lda 13#4) ∧
    decodeTableWord 8 0b1110_0010 = some (.add 14#4) ∧ decodeTableWord 8 0b0001_0011 = some (.sub 1#4) ∧
    decodeTableWord 8 0b0010_0100 = some (.sta 2#4) ∧ decodeTableWord 8 0b0101_0101 = some (.ldi 5#4) ∧
    decodeTableWord 8 0b0100_0110 = some (.jmp 4#4) ∧ decodeTableWord 8 0b1000_0111 = some (.jc 8#4) ∧
    decodeTableWord 8 0b0111_1000 = some (.jz 7#4) ∧ decodeTableWord 8 0b0000_1001 = some .rsv9 ∧
    decodeTableWord 8 0b0000_1110 = some .out ∧ decodeTableWord 8 0b0000_1111 = some .hlt := by decide

/-- The opcode is refused by name where its operand is missing. -/
theorem test_decode_refuses_a_cut_instruction :
    decode [] = .error .noOpcode ∧ decode [0b0101#4] = .error (.missingOperand 5#4) := ⟨rfl, rfl⟩

/-! ### One step of each instruction -/

/-- V1. -/
theorem test_nop_wraps : afterStep (fun t => (t.pc, t.stepCtr)) { loaded [] with pc := 0xF#4 } = some (0x0#4, 0#3) := by decide

/-- V2. -/
theorem test_rsv9 : afterStep (fun t => (t.pc, t.a, t.ir)) { loaded [(3, 9)] with pc := 3#4 } = some (4#4, 0#4, 9#4) := by decide

/-- As V2, at 0xA. -/
theorem test_rsvA : afterStep (fun t => (t.pc, t.out, t.ir)) { loaded [(3, 0xA)] with pc := 3#4 } = some (4#4, 0#4, 0xA#4) := by
  decide

/-- T2. -/
theorem test_rsvB : afterStep (fun t => (t.pc, t.bus, t.ir)) (loaded [(0, 0xB)]) = some (1#4, 0xB#4, 0xB#4) := by decide

/-- As V2, at 0xC. -/
theorem test_rsvC : afterStep (fun t => (t.pc, t.zero, t.ir)) (loaded [(0, 0xC)]) = some (1#4, false, 0xC#4) := by decide

/-- V3. -/
theorem test_rsvD : afterStep (fun t => (t.pc, t.halted)) { loaded [(3, 0xD), (4, 0xF)] with pc := 3#4 } = some (4#4, false) := by
  decide

/-- V5. -/
theorem test_out : afterStep (fun t => (t.out, t.pc)) { loaded [(0xF, 0xE)] with pc := 0xF#4, a := 0xC#4 } = some (0xC#4, 0#4) := by
  decide

/-- V6. -/
theorem test_hlt : afterStep (fun t => (t.pc, t.halted, t.stepCtr)) { loaded [(0xF, 0xF)] with pc := 0xF#4 } =
    some (0#4, true, 4#3) := by decide

/-- V7: a load keeps the flags. -/
theorem test_ldi_keeps_flags : afterStep (fun t => (t.a, t.zero, t.carry, t.pc)) { loaded [(0, 5)] with a := 9#4, carry := true } =
    some (0#4, false, true, 2#4) := by decide

/-- V9: the operand of an LDI at 0xF stands at 0. -/
theorem test_ldi_at_F : afterStep (fun t => (t.a, t.pc, t.mar)) { loaded [(0, 0xF), (0xF, 5)] with pc := 0xF#4 } =
    some (0xF#4, 1#4, 0#4) := by decide

/-- V11. -/
theorem test_lda_own_opcode : afterStep (fun t => (t.a, t.pc, t.mar)) { loaded [(2, 1), (3, 2)] with pc := 2#4 } =
    some (1#4, 4#4, 2#4) := by decide

/-- V13. -/
theorem test_lda_zero_keeps_flags : afterStep (fun t => (t.a, t.zero, t.carry)) { loaded [(0, 1), (1, 9)] with a := 5#4 } =
    some (0#4, false, false) := by decide

/-- V15. -/
theorem test_sta_own_operand : afterStep (fun t => (memRead t.ram 0#4, memRead t.ram 1#4, t.mar))
    { loaded [(0, 4), (1, 1)] with a := 0xA#4 } = some (4#4, 0xA#4, 1#4) := by decide

/-- V17. -/
theorem test_sta_at_F : afterStep (fun t => (memRead t.ram 8#4, t.pc)) { loaded [(0, 8), (0xF, 4)] with pc := 0xF#4, a := 3#4 } =
    some (3#4, 1#4) := by decide

/-- V19. -/
theorem test_add_wraps_to_zero : afterStep (fun t => (t.a, t.b, t.zero, t.carry))
    { loaded [(0, 2), (1, 9), (9, 8)] with a := 8#4 } = some (0#4, 8#4, true, true) := by decide

/-- V24: the old B is not used. -/
theorem test_add_reloads_B : afterStep (fun t => (t.a, t.b)) { loaded [(0, 2), (1, 9), (9, 1)] with a := 1#4, b := 9#4 } =
    some (2#4, 1#4) := by decide

/-- V25: no borrow from equal operands. -/
theorem test_sub_to_zero : afterStep (fun t => (t.a, t.b, t.zero, t.carry)) { loaded [(0, 3), (1, 9), (9, 5)] with a := 5#4 } =
    some (0#4, 5#4, true, false) := by decide

/-- V27: the borrow is the carry. -/
theorem test_sub_borrows : afterStep (fun t => (t.a, t.b, t.zero, t.carry)) (loaded [(0, 3), (1, 9), (9, 0xF)]) =
    some (1#4, 0xF#4, false, true) := by decide

/-- V32. -/
theorem test_jmp_to_own_operand : afterStep (fun t => t.pc) { loaded [(4, 6), (5, 5)] with pc := 4#4 } = some 5#4 := by decide

/-- V31. -/
theorem test_jmp_at_F : afterStep (fun t => t.pc) { loaded [(0, 6), (0xF, 6)] with pc := 0xF#4 } = some 6#4 := by decide

/-- V33. -/
theorem test_jc_taken : afterStep (fun t => (t.pc, t.mar, t.carry)) { loaded [(0, 7), (1, 0xA)] with carry := true } =
    some (0xA#4, 1#4, true) := by decide

/-- V34: the zero flag does not steer JC. -/
theorem test_jc_not_taken : afterStep (fun t => (t.pc, t.mar)) { loaded [(0, 7), (1, 0xA)] with zero := true } =
    some (2#4, 1#4) := by decide

/-- V35. -/
theorem test_jz_taken : afterStep (fun t => (t.pc, t.mar, t.zero)) { loaded [(0, 8), (1, 0xA)] with zero := true } =
    some (0xA#4, 1#4, true) := by decide

/-- V36: the carry flag does not steer JZ. -/
theorem test_jz_not_taken : afterStep (fun t => (t.pc, t.mar)) { loaded [(0, 8), (1, 0xA)] with carry := true } =
    some (2#4, 1#4) := by decide

/-! ### Ticks, the host, the assembler -/

/-- H2's state: `LDI 5`, `HLT` after four ticks. -/
def midLdi : State :=
  { loaded [(0, 5), (1, 5), (2, 0xF)] with pc := 1#4, mar := 1#4, ir := 5#4, bus := 1#4, stepCtr := 4#3, signals := sigAddressByPc }

/-- T3's step-3 tick of an OUT with A = 5. -/
def outAtStep3 : State :=
  { loaded [(0, 5), (1, 5), (2, 0xE)] with pc := 3#4, mar := 2#4, ir := 0xE#4, bus := 0xE#4, a := 5#4, stepCtr := 3#3 }

/-- T4's state before the step-3 tick of the HLT. -/
def hltAtStep3 : State :=
  { loaded [(0, 0xF)] with pc := 1#4, ir := 0xF#4, bus := 0xF#4, stepCtr := 3#3, signals := sigFetch }

/-- T4's state after it. -/
def haltedState : State :=
  { loaded [(0, 0xF)] with pc := 1#4, ir := 0xF#4, bus := 0xF#4, stepCtr := 4#3, signals := sigHalt, halted := true }

/-- An ADD before its step-6 tick, A = 8 and B = 8. -/
def addAtStep6 : State :=
  { loaded [(0, 2), (1, 9), (9, 8)] with pc := 2#4, mar := 9#4, ir := 2#4, bus := 8#4, a := 8#4, b := 8#4, stepCtr := 6#3 }

/-- A STA 9 with A = 7 before its step-5 tick. -/
def staAtStep5 : State :=
  { loaded [(0, 4), (1, 9)] with pc := 2#4, mar := 9#4, ir := 4#4, bus := 9#4, a := 7#4, stepCtr := 5#3 }

/-- A STA `q` with A = F at address 0, before an LDI. -/
def staBefore (q : Nibble) : State := { loaded [(0, 4), (1, q), (2, 5), (3, 1)] with a := 0xF#4 }

/-- An LDA 9 of a cell that holds `x`, before its step-4 tick. -/
def ldaAtStep4 (x : Nibble) : State :=
  { loaded [(0, 1), (1, 9), (9, x)] with pc := 1#4, mar := 1#4, ir := 1#4, bus := 1#4, stepCtr := 4#3 }

/-- A JC before its step-4 tick. -/
def jcAtStep4 (c : Bool) : State :=
  { loaded [(0, 7), (1, 0xA)] with pc := 1#4, mar := 1#4, ir := 7#4, bus := 1#4, carry := c, stepCtr := 4#3 }

/-- A JZ before its step-4 tick. -/
def jzAtStep4 (z : Bool) : State :=
  { loaded [(0, 8), (1, 0xA)] with pc := 1#4, mar := 1#4, ir := 8#4, bus := 1#4, zero := z, stepCtr := 4#3 }

/-- H2: a host write between two ticks is read as the operand. -/
theorem test_host_write_in_mid_instruction : afterStep (fun t => (t.a, t.pc, t.bus)) (ramWrite 1 9 midLdi) =
    some (9#4, 2#4, 9#4) := by decide

/-- T4. -/
theorem test_tick_halts : tick hltAtStep3 = haltedState := by decide

/-- T3, tick 12. -/
theorem test_tick_out : ((tick outAtStep3).out, (tick outAtStep3).bus, (tick outAtStep3).signals) =
    (5#4, 5#4, { aOut := true, outIn := true }) := by decide

/-- S3: `RamWrite(0x13, 0x2A)` writes 0xA to cell 3. -/
theorem test_ramWrite_masks : (ramWrite 0x13 0x2A State.reset).ram = [(3, 0x0A#8)] := by decide

/-- Both refusals of R116, and a consumer without a producer, which reads the held bus. -/
theorem test_signal_sets_outside_the_table :
    refusalOf (applySignalSet { ramOut := true, aOut := true } State.reset) = some .twoProducers ∧
    refusalOf (applySignalSet { aOut := true, loadMAR := true, ramIn := true } State.reset) = some .loadMarWithRamIn ∧
    (nextOf (applySignalSet { aIn := true } { State.reset with bus := 6#4 })).map (·.a) = some 6#4 := by decide

theorem test_program_of_17_is_refused :
    refusalOf (applyEvent (.ramLoadProgram (List.replicate 17 0)) State.reset) = some .programTooLong := by decide

/-- The lines of S10's first example. -/
def assemblerExample : List AsmLine :=
  [⟨1, none, some ⟨.ldi, some ⟨"5", some (.decimal 5)⟩⟩⟩, ⟨2, none, some ⟨.out, none⟩⟩, ⟨3, none, some ⟨.hlt, none⟩⟩]

/-- S10. -/
theorem test_assemble_example :
    assemble assemblerExample = .ok ⟨[5#4, 5#4, 0xE#4, 0xF#4] ++ List.replicate 12 0#4, []⟩ := by rfl

/-- S10: a label used before its definition, and an unknown mnemonic. -/
theorem test_assemble_forward_reference :
    assemble [⟨1, none, some ⟨.jmp, some ⟨"end", none⟩⟩⟩, ⟨2, none, some ⟨.nop, none⟩⟩, ⟨3, some "end", some ⟨.hlt, none⟩⟩] =
      .ok ⟨[6#4, 3#4, 0#4, 0xF#4] ++ List.replicate 12 0#4, [("end", 3)]⟩ ∧
    assemble [⟨1, none, some ⟨.unknown "XYZ", some ⟨"1", some (.decimal 1)⟩⟩⟩] = .error (.unknownInstruction 1) := by
  constructor <;> rfl

/-- Logs 21, 22, 23, 25: a label after the 16th nibble gives operand 0, a negative literal is undescribed, DATA with no value is
an unparseable value, and a label may be spelled as a mnemonic. -/
theorem test_assemble_marked_choices :
    operandNibble [("end", 16)] 1 (some ⟨"end", none⟩) = .ok 0#4 ∧
    operandNibble [] 1 (some ⟨"-3", some .undescribed⟩) = .error (.undescribed 1) ∧
    operandNibble [] 1 (some ⟨"21", some (.decimal 21)⟩) = .ok 5#4 ∧
    dataNibble [] 1 none = .error (.unparseableData 1) ∧
    pass1 0 [] [⟨1, some "nop", some ⟨.nop, none⟩⟩] = .ok [("nop", 0)] :=
  ⟨rfl, rfl, rfl, rfl, rfl⟩

/-! ### Witnesses: states and operands that meet the hypotheses of the statements -/

theorem test_witness_EncodingInvertsDecoding : decodeAll [0x5#4, 0xF#4, 0x0#4, 0xF#4] = .ok [.ldi 15#4, .nop, .hlt] := rfl

/-- An LDI at 0xF, its operand at 0. -/
def ldiAtF : State := { loaded [(0, 9), (0xF, 5)] with pc := 0xF#4 }

theorem test_witness_StepRunsTheDecodedInstruction :
    AtBoundary ldiAtF ∧ decode [memRead ldiAtF.ram ldiAtF.pc, memRead ldiAtF.ram (ldiAtF.pc + 1#4)] = .ok (.ldi 9#4, []) :=
  ⟨⟨rfl, rfl⟩, rfl⟩

theorem test_witness_PlacedInstructionIsRunNext : State.reset.ram.wf = true ∧ decodeTableWord 8 0xF5 = some (.ldi 15#4) := by
  decide

/-- H2's state meets the invariant. -/
theorem test_midLdi_meets_the_invariant : Inv midLdi where
  memoryCanonical := by decide
  signalsRecorded := by decide
  haltedAfterHlt := by decide
  zeroFromResult := by decide
  marAtStep1 := by decide
  marAtStep2 := by decide
  opcodeAtStep3 := by decide
  operandAddressAtStep4 := by decide

theorem test_witness_StepsKeepTheInvariant :
    Inv midLdi ∧ step midLdi = .next { midLdi with a := 5#4, pc := 2#4, bus := 5#4, stepCtr := 0#3, signals := noSignals } :=
  ⟨test_midLdi_meets_the_invariant, rfl⟩

theorem test_witness_EventsKeepTheInvariant :
    Inv midLdi ∧ applyEvents [.ramWrite 1 9, .ramRead 1] midLdi = .next (ramWrite 1 9 midLdi) :=
  ⟨test_midLdi_meets_the_invariant, rfl⟩

/-- The first idle step of HLT's and OUT's row, the last ones of ADD's. -/
theorem test_witness_IdleStepsChangeOnlySignalsAndStep :
    controlDecode 0xE#4 4#3 false false = {} ∧ controlDecode 0x0#4 3#3 false false = {} ∧
    controlDecode 0x5#4 5#3 false false = {} ∧ controlDecode 0x1#4 6#3 false false = {} ∧
    controlDecode 0x2#4 7#3 false false = {} ∧ (loaded []).halted = false := by decide

theorem test_witness_DecoderImageIsFifteenSets :
    sigAluToA ∈ decoderImage ∧ (controlDecode 0x3#4 6#3 false false).subtract = true ∧
    1 ≤ consumerCount (controlDecode 0x3#4 6#3 false false) := by decide

theorem test_witness_FetchReadsTheOpcodeAtPc : (loaded [(0, 5)]).stepCtr = 0#3 ∧ (loaded [(0, 5)]).halted = false := by decide

theorem test_witness_TickChangesEachElementAsTheSpecSays : haltedState.halted = true ∧ outAtStep3.halted = false := by decide

theorem test_witness_SubtractOnlySelectsTheAluOperation :
    sigCellToB.aluOut = false ∧ addAtStep6.halted = false ∧ (tickSignals addAtStep6).aluOut = true ∧
    (tickSignals { addAtStep6 with ir := 3#4 }).aluOut = true ∧
    (controlDecode 0x3#4 6#3 false false).subtract = true := by decide

theorem test_witness_FlagsChangeOnlyOnAluOut :
    (controlDecode 0x2#4 6#3 false false).aluOut = true ∧ addAtStep6.halted = false ∧ (tickSignals addAtStep6).aluOut = true ∧
    applyEvent .reset haltedState = .next (loaded [(0, 0xF)]) ∧
    applyEvent (.ramWrite 1 9) midLdi = .next (ramWrite 1 9 midLdi) ∧ Event.ramWrite 1 9 ≠ .reset ∧
    Event.ramWrite 1 9 ≠ .tick ∧ applyEvent .tick haltedState = .next haltedState ∧ haltedState.halted = true ∧
    applyEvent .tick hltAtStep3 = .next haltedState ∧ (tickSignals hltAtStep3).aluOut = false :=
  ⟨rfl, rfl, rfl, rfl, rfl, by decide, by decide, rfl, rfl, rfl, rfl⟩

theorem test_witness_ProducersDriveTheBus :
    (controlDecode 0x8#4 3#3 false false).counterOut = true ∧ (controlDecode 0xE#4 3#3 false false).aOut = true ∧
    (controlDecode 0x4#4 5#3 false false).aOut = true := by decide

theorem test_witness_ConsumersTakeTheBus :
    (controlDecode 0x1#4 4#3 false false).loadMAR = true ∧ (controlDecode 0x1#4 3#3 false false).loadMAR = true ∧
    (controlDecode 0x0#4 2#3 false false).irIn = true ∧ (controlDecode 0x2#4 5#3 false false).bIn = true ∧
    (controlDecode 0xE#4 3#3 false false).outIn = true ∧ (controlDecode 0x4#4 5#3 false false).ramIn = true ∧
    (controlDecode 0x7#4 4#3 false true).jump = true ∧
    applyEvent .tick hltAtStep3 = .next haltedState :=
  ⟨by decide, by decide, by decide, by decide, by decide, by decide, by decide, rfl⟩

theorem test_witness_CounterEnableIncrementsPc :
    outAtStep3.halted = false ∧ (tickSignals outAtStep3).counterEnable = false ∧ (tickSignals outAtStep3).jump = false ∧
    (controlDecode 0x5#4 4#3 false false).counterEnable = true ∧ midLdi.halted = false ∧
    { midLdi with stepCtr := 3#3 }.stepCtr = 3#3 ∧ takesOperand midLdi.ir = true := by decide

theorem test_witness_HaltedIsSetByHltAndClearedByReset :
    applyEvent .tick hltAtStep3 = .next haltedState ∧ hltAtStep3.halted = false ∧
    applyEvent .tick haltedState = .next haltedState ∧ haltedState.halted = true ∧
    applyEvent .reset haltedState = .next (loaded [(0, 0xF)]) ∧ (List.replicate 16 (0 : Int)).length ≤ 16 :=
  ⟨rfl, rfl, rfl, rfl, rfl, by decide⟩

theorem test_witness_StepCounterAdvancesEveryTick :
    applyEvent .tick hltAtStep3 = .next haltedState ∧ AtBoundary (loaded [(0, 5)]) ∧
    memRead (loaded [(0, 5)]).ram (loaded [(0, 5)]).pc ≠ 0xF#4 ∧ AtBoundary (loaded [(0, 0xF)]) ∧
    memRead (loaded [(0, 0xF)]).ram (loaded [(0, 0xF)]).pc = 0xF#4 :=
  ⟨rfl, ⟨rfl, rfl⟩, by decide, ⟨rfl, rfl⟩, rfl⟩

theorem test_witness_HaltedTicksChangeNothing :
    haltedState.halted = true ∧ hltAtStep3.halted = false ∧ hltAtStep3.ir = 0xF#4 ∧ hltAtStep3.stepCtr = 3#3 ∧
    Event.ramWrite 1 7 ≠ .tick ∧ applyEvent (.ramWrite 1 7) haltedState = .next (ramWrite 1 7 haltedState) :=
  ⟨rfl, rfl, rfl, rfl, by decide, rfl⟩

theorem test_witness_TakenAndNotTakenPathsDiffer :
    ((jcAtStep4 true).halted = false ∧ (jcAtStep4 true).stepCtr = 4#3 ∧ (jcAtStep4 true).ir = 0x7#4 ∧
      (jcAtStep4 true).carry = true) ∧
    ((jcAtStep4 false).halted = false ∧ (jcAtStep4 false).stepCtr = 4#3 ∧ (jcAtStep4 false).ir = 0x7#4 ∧
      (jcAtStep4 false).carry = false) ∧
    ((jzAtStep4 true).halted = false ∧ (jzAtStep4 true).stepCtr = 4#3 ∧ (jzAtStep4 true).ir = 0x8#4 ∧
      (jzAtStep4 true).zero = true) ∧
    (jzAtStep4 false).halted = false ∧ (jzAtStep4 false).stepCtr = 4#3 ∧ (jzAtStep4 false).ir = 0x8#4 ∧
      (jzAtStep4 false).zero = false := by decide

/-- One state for each write site. -/
theorem test_witness_RegistersChangeOnlyAtTheirWriteSites :
    midLdi.halted = false ∧ midLdi.stepCtr = 4#3 ∧ midLdi.ir = 0x5#4 ∧ addAtStep6.halted = false ∧ addAtStep6.stepCtr = 6#3 ∧
    addAtStep6.ir = 0x2#4 ∧ outAtStep3.halted = false ∧ outAtStep3.stepCtr = 3#3 ∧ outAtStep3.ir = 0xE#4 ∧
    staAtStep5.halted = false ∧ staAtStep5.stepCtr = 5#3 ∧ staAtStep5.ir = 0x4#4 := by decide

theorem test_witness_OutIsWrittenOnlyAndOnlyByOut :
    applyEvent .tick hltAtStep3 = .next haltedState ∧ outAtStep3.halted = false ∧ outAtStep3.stepCtr = 3#3 ∧
    outAtStep3.ir = 0xE#4 :=
  ⟨rfl, rfl, rfl, rfl⟩

theorem test_witness_HiddenStateIsNeverObserved :
    tickView midLdi = tickView { midLdi with bus := 9#4, aluResult := 3#4 } ∧
    midLdi.signals = { midLdi with bus := 9#4, aluResult := 3#4 }.signals := by decide

theorem test_witness_ScratchStateNeverReachesTheProgram :
    (loaded [(0, 2), (1, 9)]).stepCtr = 0#3 ∧ haltedState.halted = true ∧
    programView (loaded [(0, 2), (1, 9)]) = programView { loaded [(0, 2), (1, 9)] with b := 7#4, mar := 3#4, ir := 0xF#4 } := by
  decide

theorem test_witness_OnlySetsOutsideTheTableAreRefused :
    2 ≤ producerCount { ramOut := true, aOut := true } ∧ producerCount { aOut := true, loadMAR := true, ramIn := true } ≤ 1 ∧
    producerCount { aOut := true, ramIn := true } ≤ 1 := by decide

theorem test_witness_ResetRestartsTheImageInRam :
    applyEvent .reset midLdi = .next (loaded [(0, 5), (1, 5), (2, 0xF)]) := rfl

theorem test_witness_MemoryReturnsTheLastWrite :
    (loaded [(9, 4)]).ram.wf = true ∧ (0xF : Nibble) ≠ 0x0#4 ∧
    applyEvent (.ramLoadProgram [5, 0x2A]) State.reset = .next (loaded [(0, 5), (1, 0xA)]) ∧ [5, (0x2A : Int)][1]? = some 0x2A ∧
    midLdi.halted = false ∧ (tickSignals midLdi).ramOut = true ∧ (tickSignals outAtStep3).ramOut = false ∧
    staAtStep5.halted = false ∧ (tickSignals staAtStep5).ramIn = true :=
  ⟨by decide, by decide, rfl, rfl, rfl, rfl, rfl, rfl, rfl⟩

theorem test_witness_EqualMemoriesAreEqualData :
    (memWrite (memWrite [] 9#4 4#4) 9#4 0#4).wf = true ∧ Memory.wf [] = true ∧
    ∀ addr : Nibble, memRead (memWrite (memWrite [] 9#4 4#4) 9#4 0#4) addr = memRead [] addr := by decide

/-- Images of 15 and 16 values with the first cell beyond the shorter one, and the first length that is refused. -/
theorem test_witness_LoadProgramWritesFromZero :
    (List.replicate 15 (1 : Int)).length ≤ 16 ∧ (List.replicate 15 (1 : Int)).length ≤ (0xF#4).toNat ∧
    (List.replicate 16 (1 : Int)).length ≤ 16 ∧ (List.replicate 16 (1 : Int))[15]? = some 1 ∧
    State.reset.ram.wf = true ∧ 16 < (List.replicate 17 (1 : Int)).length := by decide

theorem test_witness_RamWriteChangesOneCell : midLdi.ram.wf = true ∧ (16 : Int) % 16 ≠ (31 : Int) % 16 := by decide

/-- H2's write, read by the very next tick, the same by a program load, and a write to the data cell read a tick later. -/
theorem test_witness_HostWritesAreSeenByLaterReads :
    (midLdi.ram.wf = true ∧ applyEvent (.ramWrite 1 9) midLdi = .next (ramWrite 1 9 midLdi) ∧
      hostWrites (.ramWrite 1 9) 1#4 9#4 ∧ (tickSignals (ramWrite 1 9 midLdi)).ramOut = true ∧ (ramWrite 1 9 midLdi).mar = 1#4) ∧
    (applyEvent (.ramLoadProgram [5, 9]) midLdi = .next (ramWrite 1 9 midLdi) ∧ hostWrites (.ramLoadProgram [5, 9]) 1#4 9#4) ∧
    ((ldaAtStep4 7).halted = false ∧ applyEvent (.ramWrite 9 7) (ldaAtStep4 4) = .next (ldaAtStep4 7) ∧
      hostWrites (.ramWrite 9 7) 9#4 7#4 ∧ (tickSignals (ldaAtStep4 7)).ramIn = false ∧
      (tickSignals (tickN 1 (ldaAtStep4 7))).ramOut = true ∧ (tickN 1 (ldaAtStep4 7)).mar = 9#4) ∧
    3 ≤ outAtStep3.stepCtr.toNat ∧ outAtStep3.stepCtr.toNat + 5 ≤ 8 :=
  ⟨⟨rfl, rfl, ⟨rfl, rfl⟩, rfl, rfl⟩, ⟨rfl, ⟨9, rfl, rfl⟩⟩, ⟨rfl, rfl, ⟨rfl, rfl⟩, rfl, rfl, rfl⟩, by decide, by decide⟩

theorem test_witness_StaStoresTheAccumulator : (loaded [(0, 4), (1, 9)]).ram.wf = true ∧ (0x8 : Nibble) ≠ 0x9#4 := by decide

theorem test_witness_InstructionsLeaveTheRestUnchanged :
    exec (.ldi 5#4) State.reset =
      .next { State.reset with a := 5#4, pc := 2#4, mar := 1#4, ir := 5#4, bus := 5#4 } ∧ Instr.ldi 5#4 ≠ .sta 0#4 :=
  ⟨rfl, by decide⟩

/-- An instruction of one nibble, a jump taken, an instruction of two nibbles, each at the end of memory or of its range. -/
theorem test_witness_PcMovesPastTheInstructionOrToItsTarget :
    AtBoundary { loaded [] with pc := 0xF#4 } ∧ AtBoundary { loaded [(0, 8), (1, 0xF)] with zero := true } ∧
    AtBoundary (loaded [(0, 8), (1, 0xF)]) ∧ (nextOf (step { loaded [] with pc := 0xF#4 })).isSome = true ∧
    (nextOf (step { loaded [(0, 8), (1, 0xF)] with zero := true })).isSome = true ∧
    (nextOf (step (loaded [(0, 8), (1, 0xF)]))).isSome = true :=
  ⟨⟨rfl, rfl⟩, ⟨rfl, rfl⟩, ⟨rfl, rfl⟩, rfl, rfl, rfl⟩

theorem test_witness_RunsEndOnlyAtHlt :
    AtBoundary (loaded [(0, 0xF)]) ∧ step (loaded [(0, 0xF)]) = .next haltedState ∧ AtBoundary (loaded [(0, 0xE)]) ∧
    (nextOf (step (loaded [(0, 0xE)]))).isSome = true :=
  ⟨⟨rfl, rfl⟩, rfl, ⟨rfl, rfl⟩, rfl⟩

/-- A store into the next instruction's opcode (V16) and one into its operand. -/
theorem test_witness_StoresAreSeenByTheNextFetch :
    (AtBoundary (staBefore 2#4) ∧ (staBefore 2#4).ram.wf = true ∧ memRead (staBefore 2#4).ram (staBefore 2#4).pc = 0x4#4 ∧
      (nextOf (step (staBefore 2#4))).isSome = true) ∧
    AtBoundary (staBefore 3#4) ∧ (staBefore 3#4).ram.wf = true ∧ memRead (staBefore 3#4).ram (staBefore 3#4).pc = 0x4#4 ∧
    (nextOf (step (staBefore 3#4))).isSome = true :=
  ⟨⟨⟨rfl, rfl⟩, rfl, rfl, rfl⟩, ⟨rfl, rfl⟩, rfl, rfl, rfl⟩

theorem test_witness_AssembledImagesHaveSixteenNibbles :
    assemble assemblerExample = .ok ⟨[5#4, 5#4, 0xE#4, 0xF#4] ++ List.replicate 12 0#4, []⟩ := test_assemble_example

end Sys2Proof.Tests
end

/-!
PROOFS. The events of the host and of the clock, and the register OUT (spec/10_state.md R17).
-/

namespace Sys2Proof.Machine

/-! ### What an event can do -/

/-- The three things an event can be (R194): a tick, a Reset, or an operation on RAM, which reads and writes nothing but RAM
(R45, R46). -/
theorem applyEvent_cases {e : Event} {s t : State} (h : applyEvent e s = .next t) :
    (e = .tick ∧ t = tick s) ∨ (e = .reset ∧ t = resetEvent s) ∨
    (e ≠ .tick ∧ e ≠ .reset ∧ ∃ m, t = { s with ram := m } ∧
      ∀ s' : State, s'.ram = s.ram → applyEvent e s' = .next { s' with ram := m }) := by
  cases e with
  | tick => cases h; exact .inl ⟨rfl, rfl⟩
  | reset => cases h; exact .inr (.inl ⟨rfl, rfl⟩)
  | ramWrite addr val =>
    cases h
    exact .inr (.inr ⟨nofun, nofun, _, rfl, fun s' hs => by simp [applyEvent, ramWrite, hs]⟩)
  | ramLoadProgram words =>
    simp only [applyEvent, ramLoadProgram] at h ⊢
    split at h
    next fits =>
      cases h
      exact .inr (.inr ⟨nofun, nofun, _, rfl, fun s' hs => by simp [fits, hs]⟩)
    next => cases h
  | ramRead addr =>
    cases h
    exact .inr (.inr ⟨nofun, nofun, s.ram, rfl, fun s' hs => by simp [applyEvent, ← hs]⟩)

/-! ### Where OUT is written -/

/-- Step 3 of the OUT instruction, on a machine that is not halted: the one tick that writes OUT (R17). -/
def AtOutWrite (s : State) : Prop := s.halted = false ∧ s.stepCtr = 3#3 ∧ s.ir = 0xE#4

theorem tick_out_of_atOutWrite {s : State} (h : AtOutWrite s) : (tick s).out = s.a := by
  obtain ⟨running, step3, isOut⟩ := h
  rw [tick_aToOut running (by simp [tickSignals, step3, isOut])]

/-- Of the effects a tick can have (R115) only `aToOut` writes OUT, and it is met nowhere else. -/
theorem tick_out_of_not_atOutWrite {s : State} (h : ¬ AtOutWrite s) : (tick s).out = s.out := by
  cases running : s.halted with
  | true => rw [tick_of_halted running]
  | false =>
    have c := tick_cases running
    generalize tick s = t at c
    cases c with
    | aToOut site => exact absurd ⟨running, site⟩ h
    | _ => rfl

/-! ### OUT is read by nothing -/

/-- The effect `f` carries the value of OUT into no other element of the state. -/
def KeepsOutApart (f : State → State) : Prop :=
  ∀ (s : State) (v : Nibble), ∃ w, f { s with out := v } = { f s with out := w }

/-- An effect that neither reads nor writes OUT. -/
theorem KeepsOutApart.of_frame {f : State → State} (h : ∀ (s : State) (v : Nibble), f { s with out := v } = { f s with out := v }) :
    KeepsOutApart f :=
  fun s v => ⟨v, h s v⟩

theorem KeepsOutApart.comp {f g : State → State} (hf : KeepsOutApart f) (hg : KeepsOutApart g) :
    KeepsOutApart fun s => f (g s) := by
  intro s v
  obtain ⟨w, hw⟩ := hg s v
  obtain ⟨u, hu⟩ := hf (g s) w
  exact ⟨u, (congrArg f hw).trans hu⟩

theorem KeepsOutApart.onSignal {f : State → State} (hf : KeepsOutApart f) (b : Bool) : KeepsOutApart (onSignal b f) := by
  cases b with
  | false => exact .of_frame fun _ _ => rfl
  | true => exact hf

/-- OutIn, the one effect that writes OUT, replaces its value without reading it (R103). -/
theorem keepsOutApart_outIn : KeepsOutApart outIn := fun s _ => ⟨s.bus, rfl⟩

/-- No signal puts OUT on the bus (R17). -/
theorem keepsOutApart_applyProducers (g : SignalSet) : KeepsOutApart (applyProducers g) := by
  have counterOut : KeepsOutApart counterOut := .of_frame fun _ _ => rfl
  have ramOut : KeepsOutApart ramOut := .of_frame fun _ _ => rfl
  have irOut : KeepsOutApart irOut := .of_frame fun _ _ => rfl
  have aOut : KeepsOutApart aOut := .of_frame fun _ _ => rfl
  have aluOut : KeepsOutApart (aluOut g.subtract) := .of_frame fun _ _ => rfl
  exact (aluOut.onSignal _).comp <| (aOut.onSignal _).comp <| (irOut.onSignal _).comp <|
    (ramOut.onSignal _).comp (counterOut.onSignal _)

theorem keepsOutApart_applyConsumers (g : SignalSet) : KeepsOutApart (applyConsumers g) := by
  have loadMAR : KeepsOutApart loadMAR := .of_frame fun _ _ => rfl
  have irIn : KeepsOutApart irIn := .of_frame fun _ _ => rfl
  have aIn : KeepsOutApart aIn := .of_frame fun _ _ => rfl
  have bIn : KeepsOutApart bIn := .of_frame fun _ _ => rfl
  have ramIn : KeepsOutApart ramIn := .of_frame fun _ _ => rfl
  have jump : KeepsOutApart jump := .of_frame fun _ _ => rfl
  exact (jump.onSignal _).comp <| (ramIn.onSignal _).comp <| (keepsOutApart_outIn.onSignal _).comp <|
    (bIn.onSignal _).comp <| (aIn.onSignal _).comp <| (irIn.onSignal _).comp (loadMAR.onSignal _)

theorem keepsOutApart_applyLast (g : SignalSet) : KeepsOutApart (applyLast g) := by
  have counterEnable : KeepsOutApart counterEnable := .of_frame fun _ _ => rfl
  have halt : KeepsOutApart halt := .of_frame fun _ _ => rfl
  exact (halt.onSignal _).comp (counterEnable.onSignal _)

theorem keepsOutApart_applyPhases (g : SignalSet) : KeepsOutApart (applyPhases g) :=
  (keepsOutApart_applyLast g).comp <| (keepsOutApart_applyConsumers g).comp (keepsOutApart_applyProducers g)

/-- The decoder does not see OUT, so a tick applies the same set whatever OUT holds (R91). -/
theorem keepsOutApart_tick : KeepsOutApart tick := by
  intro s v
  rcases Bool.eq_false_or_eq_true s.halted with halted | running
  · rw [tick_of_halted halted]
    exact ⟨v, tick_of_halted halted⟩
  · have record : KeepsOutApart (recordSignals (tickSignals s)) := .of_frame fun _ _ => rfl
    have advance : KeepsOutApart advanceStep := .of_frame fun _ _ => rfl
    obtain ⟨w, hw⟩ := advance.comp ((keepsOutApart_applyPhases (tickSignals s)).comp record) s v
    rw [tick_of_running running]
    exact ⟨w, (tick_of_running (s := { s with out := v }) running).trans hw⟩

/-! ### The obligation -/

/-- R17's writes of OUT, over all events. -/
theorem applyEvent_out {e : Event} {s t : State} (h : applyEvent e s = .next t) :
    t.out = if e = .reset then 0#4
      else if e = .tick ∧ s.halted = false ∧ s.stepCtr = 3#3 ∧ s.ir = 0xE#4 then s.a else s.out := by
  rcases applyEvent_cases h with ⟨rfl, rfl⟩ | ⟨rfl, rfl⟩ | ⟨notTick, notReset, m, rfl, -⟩
  · rw [if_neg nofun]
    split
    next site => exact tick_out_of_atOutWrite site.2
    next site => exact tick_out_of_not_atOutWrite fun atWrite => site ⟨rfl, atWrite⟩
  · rfl
  · simp [notTick, notReset]

/-- No event carries the value of OUT into another element. -/
theorem applyEvent_keepsOutApart {e : Event} {s t : State} (v : Nibble) (h : applyEvent e s = .next t) :
    ∃ w, applyEvent e { s with out := v } = .next { t with out := w } := by
  rcases applyEvent_cases h with ⟨rfl, rfl⟩ | ⟨rfl, rfl⟩ | ⟨-, -, m, rfl, onRam⟩
  · obtain ⟨w, hw⟩ := keepsOutApart_tick s v
    exact ⟨w, congrArg _ hw⟩
  · exact ⟨0#4, rfl⟩
  · exact ⟨v, onRam _ rfl⟩

/-- Settles O28: the writes by the cases of an event, and the independence because every effect keeps OUT apart. -/
theorem outIsWrittenOnlyAndOnlyByOut : Obligations.OutIsWrittenOnlyAndOnlyByOut :=
  ⟨fun _ _ _ h => applyEvent_out h, fun _ _ _ v h => ⟨rfl, applyEvent_keepsOutApart v h⟩⟩

end Sys2Proof.Machine

/-!
PROOFS. The encoding: the opcode map (spec/30_encoding.md R65).
-/

namespace Sys2Proof.Machine

/-- Settles O1, row by row of the map: the opcode alone tells the format (R64), and each row cites the decoding lemma of its
format, N for 0x0 and 0x9 to 0xF and M for 0x1 to 0x8. -/
theorem opcodeMapIsTheSpecs : Obligations.OpcodeMapIsTheSpecs := fun q rest =>
  have formatN {op : Nibble} (h : takesOperand op = false) := decode_opcode_only h (q :: rest)
  have formatM {op : Nibble} (h : takesOperand op = true) := decode_with_operand h q rest
  ⟨formatN rfl, formatM rfl, formatM rfl, formatM rfl, formatM rfl, formatM rfl, formatM rfl, formatM rfl, formatM rfl,
    formatN rfl, formatN rfl, formatN rfl, formatN rfl, formatN rfl, formatN rfl, formatN rfl⟩

end Sys2Proof.Machine

/-!
PROOFS. The control unit: the decoder's table by sites, and what each signal does on the ticks that assert it
(spec/40_control_unit.md R93 to R111).
-/

namespace Sys2Proof.Machine

/-! ### The decoder's table by sites

For a property `φ` of signal sets that the empty set does not have, the opcodes at which each column of R111 holds a set with
`φ`. With `φ` "asserts the signal", these are the signal's sites; Subtract is a member only in SUB's row. -/

@[simp] def Step3Sites (φ : SignalSet → Prop) (op : Nibble) : Prop :=
  takesOperand op = true ∧
    φ { counterOut := true, loadMAR := true, subtract := decide (op = 0x3#4) && Config.subSubtractSteps.step3 } ∨
  op = 0xE#4 ∧ φ { aOut := true, outIn := true } ∨
  op = 0xF#4 ∧ φ { halt := true }

@[simp] def Step4Sites (φ : SignalSet → Prop) (op : Nibble) (z c : Bool) : Prop :=
  op ∈ [0x1#4, 0x2#4, 0x3#4, 0x4#4] ∧ φ {
    ramOut := true, counterEnable := true, loadMAR := true
    subtract := decide (op = 0x3#4) && Config.subSubtractSteps.step4 } ∨
  op = 0x5#4 ∧ φ { ramOut := true, counterEnable := true, aIn := true } ∨
  op = 0x6#4 ∧ φ { ramOut := true, jump := true } ∨
  op = 0x7#4 ∧ φ { ramOut := true, jump := c, counterEnable := !c } ∨
  op = 0x8#4 ∧ φ { ramOut := true, jump := z, counterEnable := !z }

@[simp] def Step5Sites (φ : SignalSet → Prop) (op : Nibble) : Prop :=
  op = 0x1#4 ∧ φ { ramOut := true, aIn := true } ∨
  op ∈ [0x2#4, 0x3#4] ∧
    φ { ramOut := true, bIn := true, subtract := decide (op = 0x3#4) && Config.subSubtractSteps.step5 } ∨
  op = 0x4#4 ∧ φ { aOut := true, ramIn := true }

@[simp] def Step6Sites (φ : SignalSet → Prop) (op : Nibble) : Prop :=
  op ∈ [0x2#4, 0x3#4] ∧ φ { aluOut := true, aIn := true, subtract := decide (op = 0x3#4) }

/-- Where the decoder's output has the property `φ`. -/
@[simp] def DecodeSites (φ : SignalSet → Prop) (op : Nibble) (k : StepNo) (z c : Bool) : Prop :=
  k = 0#3 ∧ φ { counterOut := true, loadMAR := true } ∨ k = 1#3 ∧ φ { counterEnable := true } ∨
  k = 2#3 ∧ φ { ramOut := true, irIn := true } ∨ k = 3#3 ∧ Step3Sites φ op ∨ k = 4#3 ∧ Step4Sites φ op z c ∨
  k = 5#3 ∧ Step5Sites φ op ∨ k = 6#3 ∧ Step6Sites φ op

/-- A conditional jump asserts Jump if it is taken and CounterEnable if it is not (R173). -/
theorem sigJumpIf_eq (taken : Bool) : sigJumpIf taken = { ramOut := true, jump := taken, counterEnable := !taken } := by
  cases taken <;> rfl

section Sites

variable {φ : SignalSet → Prop} (idle : ¬ φ noSignals) (op : Nibble) (k : StepNo) (z c : Bool)

include idle

theorem executeRow_step3_sites : φ (executeRow op z c).step3 ↔ Step3Sites φ op := by
  rcases opcode_cases op with
    rfl | rfl | rfl | rfl | rfl | rfl | rfl | rfl | rfl | rfl | rfl | rfl | rfl | rfl | rfl | rfl <;>
    simp [idle, takesOperand, sigAddressByPc, sigAToOut, sigHalt, withSubtract]

theorem executeRow_step4_sites : φ (executeRow op z c).step4 ↔ Step4Sites φ op z c := by
  rcases opcode_cases op with
    rfl | rfl | rfl | rfl | rfl | rfl | rfl | rfl | rfl | rfl | rfl | rfl | rfl | rfl | rfl | rfl <;>
    simp [idle, sigJumpIf_eq, sigOperandToMar, sigOperandToA, sigOperandToPc, withSubtract]

theorem executeRow_step5_sites : φ (executeRow op z c).step5 ↔ Step5Sites φ op := by
  rcases opcode_cases op with
    rfl | rfl | rfl | rfl | rfl | rfl | rfl | rfl | rfl | rfl | rfl | rfl | rfl | rfl | rfl | rfl <;>
    simp [idle, sigCellToA, sigCellToB, sigAToCell, withSubtract]

theorem executeRow_step6_sites : φ (executeRow op z c).step6 ↔ Step6Sites φ op := by
  rcases opcode_cases op with
    rfl | rfl | rfl | rfl | rfl | rfl | rfl | rfl | rfl | rfl | rfl | rfl | rfl | rfl | rfl | rfl <;>
    simp [idle, sigAluToA, withSubtract]

omit idle in
theorem executeRow_step7 : (executeRow op z c).step7 = noSignals := by
  rcases opcode_cases op with
    rfl | rfl | rfl | rfl | rfl | rfl | rfl | rfl | rfl | rfl | rfl | rfl | rfl | rfl | rfl | rfl <;> rfl

/-- The whole table by sites (R110, R111). -/
theorem controlDecode_sites : φ (controlDecode op k z c) ↔ DecodeSites φ op k z c := by
  have fetch0 : φ sigAddressByPc ↔ φ { counterOut := true, loadMAR := true } := .rfl
  have fetch1 : φ sigCount ↔ φ { counterEnable := true } := .rfl
  have fetch2 : φ sigFetch ↔ φ { ramOut := true, irIn := true } := .rfl
  rcases stepNo_cases k with rfl | rfl | rfl | rfl | rfl | rfl | rfl | rfl
  · simp [fetch0]
  · simp [fetch1]
  · simp [fetch2]
  · simp [-Step3Sites, executeRow_step3_sites idle]
  · simp [-Step4Sites, executeRow_step4_sites idle]
  · simp [-Step5Sites, executeRow_step5_sites idle]
  · simp [-Step6Sites, executeRow_step6_sites idle]
  · simp [executeRow_step7, idle]

end Sites

/-! ### The sites of each signal -/

section SignalSites

variable (op : Nibble) (k : StepNo) (z c : Bool)

theorem takesOperand_iff : takesOperand op = true ↔
    op = 0x1#4 ∨ op = 0x2#4 ∨ op = 0x3#4 ∨ op = 0x4#4 ∨ op = 0x5#4 ∨ op = 0x6#4 ∨ op = 0x7#4 ∨ op = 0x8#4 := by
  revert op
  decide

theorem controlDecode_counterOut_iff : (controlDecode op k z c).counterOut = true ↔
    k = 0#3 ∨ (k = 3#3 ∧ takesOperand op = true) := by
  simpa using controlDecode_sites (φ := (·.counterOut = true)) nofun op k z c

theorem controlDecode_ramOut_iff : (controlDecode op k z c).ramOut = true ↔
    k = 2#3 ∨ (k = 4#3 ∧ takesOperand op = true) ∨ (k = 5#3 ∧ op ∈ [0x1#4, 0x2#4, 0x3#4]) := by
  simpa [takesOperand_iff, or_assoc] using controlDecode_sites (φ := (·.ramOut = true)) nofun op k z c

theorem controlDecode_aOut_iff : (controlDecode op k z c).aOut = true ↔
    (k = 3#3 ∧ op = 0xE#4) ∨ (k = 5#3 ∧ op = 0x4#4) := by
  simpa using controlDecode_sites (φ := (·.aOut = true)) nofun op k z c

theorem controlDecode_aluOut_iff : (controlDecode op k z c).aluOut = true ↔ k = 6#3 ∧ (op = 0x2#4 ∨ op = 0x3#4) := by
  simpa using controlDecode_sites (φ := (·.aluOut = true)) nofun op k z c

theorem controlDecode_op_of_subtract (h : (controlDecode op k z c).subtract = true) : op = 0x3#4 := by
  by_contra notSub
  simpa [notSub] using (controlDecode_sites (φ := (·.subtract = true)) nofun op k z c).1 h

theorem controlDecode_loadMAR_iff : (controlDecode op k z c).loadMAR = true ↔
    k = 0#3 ∨ (k = 3#3 ∧ takesOperand op = true) ∨ (k = 4#3 ∧ op ∈ [0x1#4, 0x2#4, 0x3#4, 0x4#4]) := by
  simpa using controlDecode_sites (φ := (·.loadMAR = true)) nofun op k z c

theorem controlDecode_irIn_iff : (controlDecode op k z c).irIn = true ↔ k = 2#3 := by
  simpa using controlDecode_sites (φ := (·.irIn = true)) nofun op k z c

theorem controlDecode_aIn_iff : (controlDecode op k z c).aIn = true ↔
    (k = 4#3 ∧ op = 0x5#4) ∨ (k = 5#3 ∧ op = 0x1#4) ∨ (k = 6#3 ∧ op ∈ [0x2#4, 0x3#4]) := by
  simpa using controlDecode_sites (φ := (·.aIn = true)) nofun op k z c

theorem controlDecode_bIn_iff : (controlDecode op k z c).bIn = true ↔ k = 5#3 ∧ op ∈ [0x2#4, 0x3#4] := by
  simpa using controlDecode_sites (φ := (·.bIn = true)) nofun op k z c

theorem controlDecode_outIn_iff : (controlDecode op k z c).outIn = true ↔ k = 3#3 ∧ op = 0xE#4 := by
  simpa using controlDecode_sites (φ := (·.outIn = true)) nofun op k z c

theorem controlDecode_ramIn_iff : (controlDecode op k z c).ramIn = true ↔ k = 5#3 ∧ op = 0x4#4 := by
  simpa using controlDecode_sites (φ := (·.ramIn = true)) nofun op k z c

theorem controlDecode_jump_iff : (controlDecode op k z c).jump = true ↔
    k = 4#3 ∧ (op = 0x6#4 ∨ (op = 0x7#4 ∧ c = true) ∨ (op = 0x8#4 ∧ z = true)) := by
  simpa using controlDecode_sites (φ := (·.jump = true)) nofun op k z c

theorem controlDecode_counterEnable_iff : (controlDecode op k z c).counterEnable = true ↔
    k = 1#3 ∨ (k = 4#3 ∧
      (op ∈ [0x5#4, 0x1#4, 0x4#4, 0x2#4, 0x3#4] ∨ (op = 0x7#4 ∧ c = false) ∨ (op = 0x8#4 ∧ z = false))) := by
  simpa [or_assoc, or_comm, or_left_comm] using controlDecode_sites (φ := (·.counterEnable = true)) nofun op k z c

/-- Every set the decoder emits is, but for Subtract, one of the fifteen of R115. -/
theorem withSubtract_controlDecode_mem : withSubtract false (controlDecode op k z c) ∈ decoderImage := by
  by_contra h
  simpa [withSubtract, decoderImage] using
    (controlDecode_sites (φ := (withSubtract false · ∉ decoderImage)) (by decide) op k z c).1 h

end SignalSites

/-- A property of the sets of R115 that does not look at Subtract holds of every set the decoder emits. -/
theorem controlDecode_of_decoderImage {ψ : SignalSet → Prop} (ignoresSubtract : ∀ g, ψ (withSubtract false g) → ψ g)
    (image : ∀ g ∈ decoderImage, ψ g) (op : Nibble) (k : StepNo) (z c : Bool) : ψ (controlDecode op k z c) :=
  ignoresSubtract _ (image _ (withSubtract_controlDecode_mem op k z c))

section Together

variable {op : Nibble} {k : StepNo} {z c : Bool}

/-- Signal `x` comes with signal `y` where "`x` without `y`" has no site. -/
theorem controlDecode_comesWith {x y : SignalSet → Bool} (idle : x noSignals = false)
    (noSite : ¬ DecodeSites (fun g => x g = true ∧ ¬ y g = true) op k z c) (h : x (controlDecode op k z c) = true) :
    y (controlDecode op k z c) = true := by
  by_contra without
  exact noSite ((controlDecode_sites (by simp [idle]) op k z c).1 ⟨h, without⟩)

theorem ramOut_of_loadMAR_step4 (h : (controlDecode op k z c).loadMAR = true) (step4 : k = 4#3) :
    (controlDecode op k z c).ramOut = true :=
  controlDecode_comesWith rfl (by simp [step4]) h

theorem counterOut_of_loadMAR_not_step4 (h : (controlDecode op k z c).loadMAR = true) (notStep4 : k ≠ 4#3) :
    (controlDecode op k z c).counterOut = true :=
  controlDecode_comesWith rfl (by simp [notStep4]) h

theorem outIn_of_aOut_step3 (h : (controlDecode op k z c).aOut = true) (step3 : k = 3#3) :
    (controlDecode op k z c).outIn = true :=
  controlDecode_comesWith rfl (by simp [step3]) h

theorem ramIn_of_aOut_step5 (h : (controlDecode op k z c).aOut = true) (step5 : k = 5#3) :
    (controlDecode op k z c).ramIn = true :=
  controlDecode_comesWith rfl (by simp [step5]) h

theorem ramOut_of_counterEnable_step4 (h : (controlDecode op k z c).counterEnable = true) (step4 : k = 4#3) :
    (controlDecode op k z c).ramOut = true :=
  controlDecode_comesWith rfl (by simp [step4]) h

/-- The write of a cell shares its tick with no change of the address (R104). -/
theorem aOut_and_not_loadMAR_of_ramIn (h : (controlDecode op k z c).ramIn = true) :
    (controlDecode op k z c).aOut = true ∧ (controlDecode op k z c).loadMAR = false :=
  controlDecode_of_decoderImage (ψ := fun g => g.ramIn = true → g.aOut = true ∧ g.loadMAR = false) (fun _ => id)
    (by decide) op k z c h

/-- A taken jump does not increment PC past the target (R105). -/
theorem ramOut_and_not_counterEnable_of_jump (h : (controlDecode op k z c).jump = true) :
    (controlDecode op k z c).ramOut = true ∧ (controlDecode op k z c).counterEnable = false :=
  controlDecode_of_decoderImage (ψ := fun g => g.jump = true → g.ramOut = true ∧ g.counterEnable = false) (fun _ => id)
    (by decide) op k z c h

end Together

/-! ### Sets that the decoder emits at known sites -/

/-- Step 3 of format M addresses the operand (R140). -/
theorem controlDecode_addressOperand {op : Nibble} (h : takesOperand op = true) (z c : Bool) :
    ∃ b, controlDecode op 3#3 z c = withSubtract b sigAddressByPc :=
  (controlDecode_sites (φ := fun g => ∃ b, g = withSubtract b sigAddressByPc) (by decide) op 3#3 z c).2
    (by simp [h, withSubtract, sigAddressByPc])

/-- AluOut comes with AIn and nothing else but Subtract (R97, R98). -/
theorem controlDecode_of_aluOut {op : Nibble} {k : StepNo} {z c : Bool} (h : (controlDecode op k z c).aluOut = true) :
    controlDecode op k z c = withSubtract (controlDecode op k z c).subtract sigAluToA := by
  obtain ⟨rfl, rfl | rfl⟩ := (controlDecode_aluOut_iff op k z c).1 h <;> rfl

/-! ### The ALU's result -/

/-- The result of both operations in natural numbers, the difference shifted by 16 (R150, R151). -/
theorem alu_result (a b : Nibble) (sub : Bool) : (alu a b sub).result =
    if sub then BitVec.ofNat 4 (a.toNat + 16 - b.toNat) else BitVec.ofNat 4 (a.toNat + b.toNat) := by
  cases sub with
  | false => rfl
  | true =>
    have shifted : (a.toNat : Int) - b.toNat + 16 = (a.toNat + 16 - b.toNat : Nat) := by omega
    calc (alu a b true).result
        = BitVec.ofInt 4 ((a.toNat : Int) - b.toNat + 16) := rfl
      _ = BitVec.ofNat 4 (a.toNat + 16 - b.toNat) := by rw [shifted, BitVec.ofInt_natCast]

/-! ### The fetch -/

theorem tick_step0 {s : State} (running : s.halted = false) (step0 : s.stepCtr = 0#3) :
    tick s = { s with bus := s.pc, mar := s.pc, signals := sigAddressByPc, stepCtr := 1#3 } := by
  have emitted : tickSignals s = sigAddressByPc := by simp [tickSignals, step0]
  rw [tick_addressByPc running emitted, emitted, step0]
  rfl

theorem tick_step1 {s : State} (running : s.halted = false) (step1 : s.stepCtr = 1#3) :
    tick s = { s with pc := regIncrement s.pc, signals := sigCount, stepCtr := 2#3 } := by
  have emitted : tickSignals s = sigCount := by simp [tickSignals, step1]
  rw [tick_count running emitted, emitted, step1]
  rfl

theorem tick_step2 {s : State} (running : s.halted = false) (step2 : s.stepCtr = 2#3) :
    tick s = { s with bus := memRead s.ram s.mar, ir := memRead s.ram s.mar, signals := sigFetch, stepCtr := 3#3 } := by
  have emitted : tickSignals s = sigFetch := by simp [tickSignals, step2]
  rw [tick_fetch running emitted, emitted, step2]
  rfl

/-- The net effect of the three ticks (R110): step 2 reads at the address that step 0 took from PC, which step 1 leaves in
MAR. -/
theorem tickN_fetch {s : State} (step0 : s.stepCtr = 0#3) (running : s.halted = false) : tickN 3 s = { s with
    mar := s.pc, pc := s.pc + 1#4, ir := memRead s.ram s.pc, bus := memRead s.ram s.pc, stepCtr := 3#3
    signals := { ramOut := true, irIn := true } } := by
  rw [tickN_succ, tick_step0 running step0, tickN_succ, tick_step1 ?_ rfl, tickN_succ, tick_step2 ?_ rfl]
  · rfl
  · exact running
  · exact running

/-! ### Single elements after a tick -/

/-- The tick that asserts AluOut, whole (R97). -/
theorem tick_of_aluOut {s : State} (running : s.halted = false) (h : (tickSignals s).aluOut = true) :
    tick s = advanceStep (aluToA (tickSignals s).subtract (recordSignals (tickSignals s) s)) := by
  have emitted : tickSignals s = withSubtract (tickSignals s).subtract sigAluToA := controlDecode_of_aluOut h
  rw [tick_of_running running, emitted]
  cases (tickSignals s).subtract <;> rfl

/-- Without AluOut a tick writes neither flag and leaves the last result (R97). -/
theorem tick_flags_of_no_aluOut {s : State} (h : s.halted = true ∨ (tickSignals s).aluOut = false) :
    (tick s).aluResult = s.aluResult ∧ (tick s).zero = s.zero ∧ (tick s).carry = s.carry := by
  rcases Bool.eq_false_or_eq_true s.halted with halted | running
  · simp [tick_of_halted halted]
  · have noAlu : ¬ (s.stepCtr = 6#3 ∧ (s.ir = 0x2#4 ∨ s.ir = 0x3#4)) := by
      simpa [running, tickSignals, ← controlDecode_aluOut_iff _ _ s.zero s.carry] using h
    have effect := tick_cases running
    generalize tick s = t at effect
    cases effect with
    | aluAdd site => exact absurd ⟨site.1, .inl site.2⟩ noAlu
    | aluSub site => exact absurd ⟨site.1, .inr site.2⟩ noAlu
    | _ => exact ⟨rfl, rfl, rfl⟩

/-- A tick changes IR at step 2 only (R100). -/
theorem tick_ir {s : State} (running : s.halted = false) :
    (tick s).ir = if s.stepCtr = 2#3 then memRead s.ram s.mar else s.ir := by
  split
  next step2 => rw [tick_step2 running step2]
  next notStep2 =>
    have effect := tick_cases running
    generalize tick s = t at effect
    cases effect with
    | fetch site => exact absurd site notStep2
    | _ => rfl

/-- No event but a step-2 tick and Reset changes IR (R100). -/
theorem applyEvent_ir {e : Event} {s t : State} (h : applyEvent e s = .next t) :
    t.ir = if e = .reset then 0#4
      else if e = .tick ∧ s.halted = false ∧ s.stepCtr = 2#3 then memRead s.ram s.mar else s.ir := by
  rcases applyEvent_cases h with ⟨rfl, rfl⟩ | ⟨rfl, rfl⟩ | ⟨notTick, notReset, m, rfl, -⟩
  · rcases Bool.eq_false_or_eq_true s.halted with halted | running
    · simp [tick_of_halted halted, halted]
    · simp [tick_ir running, running]
  · rfl
  · simp [notTick, notReset]

/-- Only Jump and CounterEnable write PC, in any set (R105, R106). -/
theorem applyPhases_pc {g : SignalSet} (noCount : g.counterEnable = false) (noJump : g.jump = false) (s : State) :
    (applyPhases g s).pc = s.pc := by
  simp [applyPhases, applyLast, applyConsumers, applyProducers, noCount, noJump, onSignal_apply State.pc,
    counterOut, ramOut, irOut, aOut, aluOut]

/-! ### The obligations -/

/-- Settles O18: without AluOut no phase reads Subtract; with it the tick is the ALU's, whose result `alu_result` gives; and
Subtract's sites are in SUB's row. -/
theorem subtractOnlySelectsTheAluOperation : Obligations.SubtractOnlySelectsTheAluOperation := by
  refine ⟨fun g b s noAlu => applyPhases_withSubtract b noAlu s, fun s running asserted => ?_, controlDecode_op_of_subtract⟩
  rw [tick_of_aluOut running asserted]
  simp [alu_result]

/-- Settles O19: AluOut by its sites, its tick whole, and the frame by the cases of an event and of a tick. -/
theorem flagsChangeOnlyOnAluOut : Obligations.FlagsChangeOnlyOnAluOut := by
  refine ⟨fun op k z c => ⟨controlDecode_aluOut_iff op k z c, controlDecode_comesWith rfl (by simp)⟩,
    fun s running asserted => ?_, fun e s t h => ?_⟩
  · rw [tick_of_aluOut running asserted]
    simp
  · rcases applyEvent_cases h with ⟨rfl, rfl⟩ | ⟨rfl, rfl⟩ | ⟨notTick, notReset, m, rfl, -⟩
    · exact ⟨nofun, fun _ site => tick_flags_of_no_aluOut (site.resolve_left (· rfl))⟩
    · exact ⟨fun _ => ⟨rfl, rfl⟩, fun notReset => absurd rfl notReset⟩
    · exact ⟨fun isReset => absurd isReset notReset, fun _ _ => ⟨rfl, rfl, rfl⟩⟩

/-- Settles O21: the effects compute, IR by the cases of an event, each signal by its sites, and its producer
because the signal without that producer has no site. -/
theorem consumersTakeTheBus : Obligations.ConsumersTakeTheBus := by
  refine ⟨fun s => ⟨rfl, rfl, rfl, rfl, rfl, rfl, rfl, rfl, rfl⟩, fun e s t h => applyEvent_ir h, fun op k z c => ?_⟩
  exact ⟨controlDecode_loadMAR_iff op k z c, ramOut_of_loadMAR_step4, counterOut_of_loadMAR_not_step4,
    controlDecode_irIn_iff op k z c, controlDecode_comesWith rfl (by simp),
    controlDecode_aIn_iff op k z c,
    controlDecode_bIn_iff op k z c, controlDecode_comesWith rfl (by simp),
    controlDecode_outIn_iff op k z c, controlDecode_comesWith rfl (by simp),
    controlDecode_ramIn_iff op k z c, aOut_and_not_loadMAR_of_ramIn,
    controlDecode_jump_iff op k z c, ramOut_and_not_counterEnable_of_jump⟩

/-- Settles O22: the effect computes, the sites are the table's, MAR gets PC from the set of step 3, and the frame holds for any
set without CounterEnable and Jump. -/
theorem counterEnableIncrementsPc : Obligations.CounterEnableIncrementsPc := by
  refine ⟨fun s => ⟨rfl, BitVec.toNat_add .., rfl⟩, controlDecode_counterEnable_iff,
    fun _ _ _ count => ramOut_of_counterEnable_step4 count rfl, ?_, ?_⟩
  · intro s running step3 format
    obtain ⟨b, emitted⟩ := controlDecode_addressOperand format s.zero s.carry
    rw [tick_addressByPc_subtract running (by rw [tickSignals, step3, emitted])]
  · intro s running noCount noJump
    rw [tick_of_running running, advanceStep_pc, applyPhases_pc noCount noJump, recordSignals_pc]

/-- Settles O12, row by row; a conditional jump's row depends on its flag. -/
theorem decodeTableIsTheSpecs : Obligations.DecodeTableIsTheSpecs := by
  intro z c
  refine ⟨fun op => ⟨rfl, rfl, rfl⟩, ?nopRow, rfl, rfl, rfl, rfl, rfl, rfl, ?jcRow, ?jzRow, rfl, rfl⟩
  case nopRow => simp [noSignals]
  case jcRow => cases c <;> rfl
  case jzRow => cases z <;> rfl

/-- Settles O14, set by set of R115: Subtract is no producer, so the fifteen sets decide it. -/
theorem atMostOneProducerPerTick : Obligations.AtMostOneProducerPerTick :=
  controlDecode_of_decoderImage (ψ := fun g => producerCount g ≤ 1) (fun _ => id) (by decide)

/-- Settles O16: the first three columns are constant, and the three ticks compose. -/
theorem fetchReadsTheOpcodeAtPc : Obligations.FetchReadsTheOpcodeAtPc :=
  ⟨fun _ _ _ => ⟨rfl, rfl, rfl⟩, fun _ => tickN_fetch⟩

/-- Settles O20: the effects compute, and the sites are the table's. -/
theorem producersDriveTheBus : Obligations.ProducersDriveTheBus :=
  ⟨fun _ => ⟨rfl, rfl, rfl, rfl⟩, fun op k z c =>
    ⟨controlDecode_counterOut_iff op k z c, controlDecode_comesWith rfl (by simp), controlDecode_ramOut_iff op k z c,
      controlDecode_aOut_iff op k z c, outIn_of_aOut_step3, ramIn_of_aOut_step5⟩⟩

end Sys2Proof.Machine

/-!
PROOFS. The ALU on all pairs of operands (spec/43_arithmetic.md R150 to R152).
-/

namespace Sys2Proof.Machine

/-! ### The ALU's outputs in natural numbers -/

theorem alu_add_result_toNat (a b : Nibble) : (alu a b false).result.toNat = (a.toNat + b.toNat) % 16 := by
  rw [alu_result]
  exact BitVec.toNat_ofNat ..

theorem alu_sub_result_toNat (a b : Nibble) : (alu a b true).result.toNat = (a.toNat + 16 - b.toNat) % 16 := by
  rw [alu_result]
  exact BitVec.toNat_ofNat ..

/-- The mask takes the shift by 16 away again exactly when there is no borrow (R151). -/
theorem alu_sub_result_toNat_eq_ite (a b : Nibble) : (alu a b true).result.toNat =
    if a.toNat ≥ b.toNat then a.toNat - b.toNat else a.toNat + 16 - b.toNat := by
  rw [alu_sub_result_toNat]
  split <;> omega

/-- R152, for both operations. -/
theorem alu_zero (a b : Nibble) (sub : Bool) : (alu a b sub).zero = decide ((alu a b sub).result = 0#4) := by
  cases sub <;> rfl

/-! ### The obligation -/

/-- Settles O32: the results in natural numbers, and both flags as the ALU defines them. -/
theorem aluComputesSumAndDifference : Obligations.AluComputesSumAndDifference := fun a b =>
  ⟨alu_add_result_toNat a b, rfl, alu_zero a b false,
    alu_sub_result_toNat a b, alu_sub_result_toNat_eq_ite a b, rfl, alu_zero a b true⟩

end Sys2Proof.Machine

/-!
PROOFS. Step 4 of the conditional jumps (spec/44_jumps.md R173).
-/

namespace Sys2Proof.Machine

/-- The flag that the opcode looks at decides between the two sets: C for JC, Z for JZ. -/
theorem controlDecode_conditionalJump {op : Nibble} {z c taken : Bool}
    (flag : op = 0x7#4 ∧ c = taken ∨ op = 0x8#4 ∧ z = taken) : controlDecode op 4#3 z c = sigJumpIf taken := by
  obtain ⟨rfl, rfl⟩ | ⟨rfl, rfl⟩ := flag
  · rw [controlDecode_at4, executeRowJc]
  · rw [controlDecode_at4, executeRowJz]

theorem tickSignals_conditionalJump {s : State} {taken : Bool} (step4 : s.stepCtr = 4#3)
    (flag : s.ir = 0x7#4 ∧ s.carry = taken ∨ s.ir = 0x8#4 ∧ s.zero = taken) : tickSignals s = sigJumpIf taken := by
  rw [tickSignals, step4, controlDecode_conditionalJump flag]

/-- Settles O26: the flag selects the signal set, and each of the two sets has its tick. -/
theorem takenAndNotTakenPathsDiffer : Obligations.TakenAndNotTakenPathsDiffer := by
  refine fun s running step4 => ⟨fun taken => ?taken, fun notTaken => ?notTaken⟩
  case taken =>
    have emitted : tickSignals s = sigOperandToPc := tickSignals_conditionalJump step4 taken
    rw [tick_operandToPc running emitted, emitted, step4]
    rfl
  case notTaken =>
    have emitted : tickSignals s = sigOperandDropped := tickSignals_conditionalJump step4 notTaken
    rw [tick_operandDropped running emitted, emitted, step4]
    rfl

end Sys2Proof.Machine

/-!
PROOFS. The first step after a Reset (spec/70_reset_and_hazards.md R201).
-/

namespace Sys2Proof.Machine

/-- PC is 0 after Reset, so the two cells of the next fetch are 0 and 1, of the memory as it was. -/
theorem fetchInstr_resetEvent (s : State) :
    fetchInstr (resetEvent s) = decodePair (memRead s.ram 0x0#4) (memRead s.ram 0x1#4) := by
  have nextCell : regIncrement 0x0#4 = 0x1#4 := rfl
  rw [fetchInstr, opcodeAt, operandAt, resetEvent_ram, resetEvent_pc, nextCell]

/-- Reset leaves the machine at an instruction boundary and not halted, whatever the state before. -/
theorem step_resetEvent (s : State) : step (resetEvent s) =
    exec (decodePair (memRead s.ram 0x0#4) (memRead s.ram 0x1#4)) (resetEvent s) := by
  rw [step_at_boundary (resetEvent_halted s) (resetEvent_stepCtr s), fetchInstr_resetEvent]

/-- Settles O35: Reset keeps RAM, and its next step is an instruction fetched from address 0. -/
theorem resetRestartsTheImageInRam : Obligations.ResetRestartsTheImageInRam := by
  intro s t afterReset
  obtain rfl : resetEvent s = t := Host.Outcome.next.inj afterReset
  have keepsCells (addr : Nibble) : memRead (resetEvent s).ram addr = memRead s.ram addr := by rw [resetEvent_ram]
  exact ⟨keepsCells, step_resetEvent s⟩

end Sys2Proof.Machine

/-!
PROOFS. Sequences of instructions as nibbles and back (spec/30_encoding.md R60 to R67).
-/

namespace Sys2Proof

/-! ### `decodeAll`, one instruction at a time -/

theorem decodeAll_opcode_only {op : Nibble} (h : takesOperand op = false) (rest : List Nibble) :
    decodeAll (op :: rest) = (decodeAll rest).map (decodePair op 0#4 :: ·) := by
  cases rest with
  | nil => simp [decodeAll, h, Except.map]
  | cons q rest => simp [decodeAll, h]

theorem decodeAll_with_operand {op : Nibble} (h : takesOperand op = true) (q : Nibble) (rest : List Nibble) :
    decodeAll (op :: q :: rest) = (decodeAll rest).map (decodePair op q :: ·) := by
  rw [decodeAll, if_pos h]

theorem decodeAll_cut {op : Nibble} (h : takesOperand op = true) : decodeAll [op] = .error (.missingOperand op) := by
  rw [decodeAll, if_pos h]

/-- The encoding of an instruction is read back whatever nibbles follow it: its opcode tells how many are its own (R64). -/
theorem decodeAll_encode_append (i : Instr) (rest : List Nibble) :
    decodeAll (encode i ++ rest) = (decodeAll rest).map (i :: ·) := by
  have readBack := decodePair_opcodeOf i
  cases operand : operandOf i with
  | none =>
    rw [operand, Option.getD_none] at readBack
    simp [encode, operand, decodeAll_opcode_only, readBack]
  | some q =>
    rw [operand, Option.getD_some] at readBack
    simp [encode, operand, decodeAll_with_operand, readBack]

/-! ### The encoding of what an opcode and an operand decode to -/

theorem encode_decodePair_of_takesOperand {op : Nibble} (h : takesOperand op = true) (q : Nibble) :
    encode (decodePair op q) = [op, q] := by
  revert op q
  decide

theorem encode_decodePair_of_opcode_only {op : Nibble} (h : takesOperand op = false) : encode (decodePair op 0#4) = [op] := by
  revert op
  decide

/-! ### Every list of nibbles -/

/-- `ns` is the encoding of the instructions it decodes to, or it is cut after an opcode of format M that follows them. -/
def DecodesOrIsCut (ns : List Nibble) : Prop :=
  (∃ is, decodeAll ns = .ok is ∧ ns = is.flatMap encode) ∨
  ∃ (is : List Instr) (op : Nibble), takesOperand op = true ∧ ns = is.flatMap encode ++ [op] ∧
    decodeAll ns = .error (.missingOperand op)

theorem DecodesOrIsCut.encode_append (i : Instr) {rest : List Nibble} (h : DecodesOrIsCut rest) :
    DecodesOrIsCut (encode i ++ rest) := by
  obtain ⟨is, decodes, rfl⟩ | ⟨is, op, format, rfl, cut⟩ := h
  · exact .inl ⟨i :: is, by rw [decodeAll_encode_append, decodes]; rfl, rfl⟩
  · exact .inr ⟨i :: is, op, format, by simp, by rw [decodeAll_encode_append, cut]; rfl⟩

/-- No encoding is illegal (R67): whatever stands before the end was put there by `encode`. -/
theorem decodesOrIsCut (ns : List Nibble) : DecodesOrIsCut ns := by
  induction ns using decodeAll.induct with
  | case1 => exact .inl ⟨[], rfl, rfl⟩
  | case2 op format => exact .inr ⟨[], op, format, rfl, decodeAll_cut format⟩
  | case3 op format =>
    rw [Bool.not_eq_true] at format
    rw [← encode_decodePair_of_opcode_only format, ← List.append_nil (encode _)]
    exact .encode_append _ (.inl ⟨[], rfl, rfl⟩)
  | case4 op q rest format ih =>
    have placed : op :: q :: rest = encode (decodePair op q) ++ rest := by rw [encode_decodePair_of_takesOperand format]; rfl
    exact placed ▸ ih.encode_append _
  | case5 op q rest format ih =>
    rw [Bool.not_eq_true] at format
    rw [← List.singleton_append, ← encode_decodePair_of_opcode_only format]
    exact ih.encode_append _

/-! ### The obligations -/

/-- Settles O2, by induction on the sequence: the first encoding is read back whatever follows it. -/
theorem decodingInvertsEncoding : Obligations.DecodingInvertsEncoding := by
  intro is
  induction is with
  | nil => rfl
  | cons i is ih => rw [List.flatMap_cons, decodeAll_encode_append, ih]; rfl

/-- Settles O3: a list that decodes is not one that is cut. -/
theorem encodingInvertsDecoding : Obligations.EncodingInvertsDecoding := by
  intro ns is decodes
  obtain ⟨is', decodes', rfl⟩ | ⟨_, _, _, _, cut⟩ := decodesOrIsCut ns
  · cases decodes.symm.trans decodes'
    rfl
  · cases decodes.symm.trans cut

/-- Settles O4: the induction over the list's nibbles is `decodesOrIsCut`. -/
theorem noEncodingIsIllegal : Obligations.NoEncodingIsIllegal := fun ns =>
  (decodesOrIsCut ns).imp_left fun ⟨is, decodes, _⟩ => ⟨is, decodes⟩

end Sys2Proof

/-!
PROOFS. The control unit's idle steps and the image of the decoder (spec/40_control_unit.md R112, R115).
-/

namespace Sys2Proof.Machine

/-- The places of the table that hold a set. -/
theorem controlDecode_ne_noSignals_iff (op : Nibble) (k : StepNo) (z c : Bool) : controlDecode op k z c ≠ noSignals ↔
    k = 0#3 ∨ k = 1#3 ∨ k = 2#3 ∨ k = 3#3 ∧ (takesOperand op = true ∨ op = 0xE#4 ∨ op = 0xF#4) ∨
    k = 4#3 ∧ takesOperand op = true ∨ k = 5#3 ∧ op ∈ [0x1#4, 0x2#4, 0x3#4, 0x4#4] ∨
    k = 6#3 ∧ op ∈ [0x2#4, 0x3#4] := by
  simpa [noSignals, takesOperand_iff, or_assoc] using controlDecode_sites (φ := (· ≠ noSignals)) (by simp) op k z c

/-- The pairs at which the decoder emits the empty set are those at which no set of the table stands. -/
theorem controlDecode_idle_iff (op : Nibble) (k : StepNo) (z c : Bool) : controlDecode op k z c = noSignals ↔
    (3 ≤ k.toNat ∧ op ∈ [0x0#4, 0x9#4, 0xA#4, 0xB#4, 0xC#4, 0xD#4]) ∨
    (4 ≤ k.toNat ∧ op ∈ [0xE#4, 0xF#4]) ∨
    (5 ≤ k.toNat ∧ op ∈ [0x5#4, 0x6#4, 0x7#4, 0x8#4]) ∨
    (6 ≤ k.toNat ∧ op ∈ [0x1#4, 0x4#4]) ∨
    (7 ≤ k.toNat ∧ op ∈ [0x2#4, 0x3#4]) := by
  rw [← not_iff_not, ← ne_eq, controlDecode_ne_noSignals_iff]
  revert op k
  decide

/-- Subtract stands in SUB's row only, between its steps 3 and 6 (R98, D4). -/
theorem controlDecode_subtract_sites {op : Nibble} {k : StepNo} {z c : Bool} (h : (controlDecode op k z c).subtract = true) :
    op = 0x3#4 ∧ 3 ≤ k.toNat ∧ k.toNat ≤ 6 := by
  obtain rfl := controlDecode_op_of_subtract op k z c h
  refine ⟨rfl, ?_⟩
  rcases stepNo_cases k with rfl | rfl | rfl | rfl | rfl | rfl | rfl | rfl
  · cases h
  · cases h
  · cases h
  · decide
  · decide
  · decide
  · decide
  · cases h

theorem withSubtract_false_of_not_subtract {g : SignalSet} (h : g.subtract = false) : withSubtract false g = g := by
  rw [withSubtract, ← h]

/-- A consumer takes what one producer drives (R18, R115). -/
theorem producerCount_of_consumer (op : Nibble) (k : StepNo) (z c : Bool) :
    1 ≤ consumerCount (controlDecode op k z c) → producerCount (controlDecode op k z c) = 1 :=
  controlDecode_of_decoderImage (ψ := fun g => 1 ≤ consumerCount g → producerCount g = 1) (fun _ => id) (by decide) op k z c

/-- Each set of R115 has a place in the table. -/
theorem decoderImage_attained :
    ∀ g ∈ decoderImage, ∃ (op : Nibble) (k : StepNo) (z c : Bool), controlDecode op k z c = g := by
  have found (op : Nibble) (k : StepNo) (z c : Bool) :
      ∃ (op' : Nibble) (k' : StepNo) (z' c' : Bool), controlDecode op' k' z' c' = controlDecode op k z c :=
    ⟨op, k, z, c, rfl⟩
  simp only [decoderImage, List.forall_mem_cons]
  exact ⟨found 0x0#4 3#3 false false, found 0x0#4 0#3 false false, found 0x0#4 1#3 false false, found 0x0#4 2#3 false false,
    found 0xE#4 3#3 false false, found 0xF#4 3#3 false false, found 0x5#4 4#3 false false, found 0x1#4 4#3 false false,
    found 0x1#4 5#3 false false, found 0x4#4 5#3 false false, found 0x2#4 5#3 false false, found 0x2#4 6#3 false false,
    found 0x3#4 6#3 false false, found 0x6#4 4#3 false false, found 0x7#4 4#3 false false, List.forall_mem_nil _⟩

/-- Every output is one of the fifteen, but for the open Subtract at SUB's steps 3 to 5 (D4, log 5). -/
theorem controlDecode_mem_decoderImage (op : Nibble) (k : StepNo) (z c : Bool) : controlDecode op k z c ∈ decoderImage ∨
    op = 0x3#4 ∧ 3 ≤ k.toNat ∧ k.toNat ≤ 5 ∧ (controlDecode op k z c).subtract = true ∧
      withSubtract false (controlDecode op k z c) ∈ decoderImage := by
  have image := withSubtract_controlDecode_mem op k z c
  cases subtract : (controlDecode op k z c).subtract with
  | false => exact .inl (withSubtract_false_of_not_subtract subtract ▸ image)
  | true =>
    obtain ⟨rfl, atLeast3, atMost6⟩ := controlDecode_subtract_sites subtract
    by_cases step6 : k = 6#3
    · subst step6
      exact .inl (by revert z c; decide)
    · have notStep6 : k.toNat ≠ 6 := fun h => step6 (BitVec.eq_of_toNat_eq h)
      exact .inr ⟨rfl, atLeast3, by omega, rfl, image⟩

/-- Settles O13: the idle pairs by the table's sites, and the tick with the empty set applies no phase. -/
theorem idleStepsChangeOnlySignalsAndStep : Obligations.IdleStepsChangeOnlySignalsAndStep :=
  ⟨controlDecode_idle_iff, fun _ running emitted => (tick_idle running emitted).trans (by rw [tickSignals, emitted])⟩

/-- Settles O15: the list is computed, each of its sets has a place, and the rest is read off the sites. -/
theorem decoderImageIsFifteenSets : Obligations.DecoderImageIsFifteenSets := by
  refine ⟨rfl, by decide, decoderImage_attained, fun op k z c => ?_⟩
  refine ⟨controlDecode_mem_decoderImage op k z c, controlDecode_subtract_sites, ?_, producerCount_of_consumer op k z c⟩
  rintro rfl rfl
  rfl

end Sys2Proof.Machine

/-!
PROOFS. The three phases and the tick, element by element (spec/40_control_unit.md R90, R108, R116).
-/

namespace Sys2Proof.Machine

/-! ### Each conditional effect as one record update -/

theorem onSignal_counterOut (b : Bool) (s : State) :
    onSignal b counterOut s = { s with bus := if b then s.pc else s.bus } := by cases b <;> rfl
theorem onSignal_ramOut (b : Bool) (s : State) :
    onSignal b ramOut s = { s with bus := if b then memRead s.ram s.mar else s.bus } := by cases b <;> rfl
theorem onSignal_irOut (b : Bool) (s : State) :
    onSignal b irOut s = { s with bus := if b then s.ir else s.bus } := by cases b <;> rfl
theorem onSignal_aOut (b : Bool) (s : State) :
    onSignal b aOut s = { s with bus := if b then s.a else s.bus } := by cases b <;> rfl
theorem onSignal_aluOut (b sub : Bool) (s : State) : onSignal b (aluOut sub) s = { s with
    bus := if b then (alu s.a s.b sub).result else s.bus
    aluResult := if b then (alu s.a s.b sub).result else s.aluResult
    zero := if b then (alu s.a s.b sub).zero else s.zero
    carry := if b then (alu s.a s.b sub).carry else s.carry } := by cases b <;> rfl
theorem onSignal_loadMAR (b : Bool) (s : State) :
    onSignal b loadMAR s = { s with mar := if b then s.bus else s.mar } := by cases b <;> rfl
theorem onSignal_irIn (b : Bool) (s : State) :
    onSignal b irIn s = { s with ir := if b then s.bus else s.ir } := by cases b <;> rfl
theorem onSignal_aIn (b : Bool) (s : State) :
    onSignal b aIn s = { s with a := if b then s.bus else s.a } := by cases b <;> rfl
theorem onSignal_bIn (b : Bool) (s : State) :
    onSignal b bIn s = { s with b := if b then s.bus else s.b } := by cases b <;> rfl
theorem onSignal_outIn (b : Bool) (s : State) :
    onSignal b outIn s = { s with out := if b then s.bus else s.out } := by cases b <;> rfl
theorem onSignal_ramIn (b : Bool) (s : State) :
    onSignal b ramIn s = { s with ram := if b then memWrite s.ram s.mar s.bus else s.ram } := by cases b <;> rfl
theorem onSignal_jump (b : Bool) (s : State) :
    onSignal b jump s = { s with pc := if b then s.bus else s.pc } := by cases b <;> rfl
theorem onSignal_counterEnable (b : Bool) (s : State) :
    onSignal b counterEnable s = { s with pc := s.pc + if b then 1#4 else 0#4 } := by
  cases b with
  | true => rfl
  | false => simp
theorem onSignal_halt (b : Bool) (s : State) : onSignal b halt s = { s with halted := s.halted || b } := by
  cases b with
  | true => simp [halt]
  | false => simp

/-! ### The phases -/

/-- The bus after phase 1 of a set with at most one producer: its value, or the value the bus holds (R18, R116). -/
def settledBus (g : SignalSet) (s : State) : Nibble :=
  if g.counterOut then s.pc else if g.ramOut then memRead s.ram s.mar else if g.irOut then s.ir
  else if g.aOut then s.a else if g.aluOut then (alu s.a s.b g.subtract).result else s.bus

/-- With at most one producer, that the last one applied wins makes no difference (R109, R116). -/
theorem applyProducers_bus {g : SignalSet} (one : producerCount g ≤ 1) (s : State) :
    (applyProducers g s).bus = settledBus g s := by
  simp only [producerCount, producerSignals, List.countP_cons, List.countP_nil, asserts] at one
  simp only [applyProducers, onSignal_counterOut, onSignal_ramOut, onSignal_irOut, onSignal_aOut, onSignal_aluOut, settledBus]
  grind

theorem applyProducers_eq {g : SignalSet} (one : producerCount g ≤ 1) (s : State) : applyProducers g s = { s with
    bus := settledBus g s
    aluResult := if g.aluOut then (alu s.a s.b g.subtract).result else s.aluResult
    zero := if g.aluOut then (alu s.a s.b g.subtract).zero else s.zero
    carry := if g.aluOut then (alu s.a s.b g.subtract).carry else s.carry } := by
  have bus : (applyProducers g s).bus = settledBus g s := applyProducers_bus one s
  rw [← bus]
  simp only [applyProducers, onSignal_counterOut, onSignal_ramOut, onSignal_irOut, onSignal_aOut, onSignal_aluOut]

/-- No consumer reads what another one writes, except that RamIn writes at MAR (R108, R116). -/
theorem applyConsumers_eq {g : SignalSet} (apart : g.loadMAR = false ∨ g.ramIn = false) (s : State) :
    applyConsumers g s = { s with
      mar := if g.loadMAR then s.bus else s.mar
      ir := if g.irIn then s.bus else s.ir
      a := if g.aIn then s.bus else s.a
      b := if g.bIn then s.bus else s.b
      out := if g.outIn then s.bus else s.out
      ram := if g.ramIn then memWrite s.ram s.mar s.bus else s.ram
      pc := if g.jump then s.bus else s.pc } := by
  simp only [applyConsumers, onSignal_loadMAR, onSignal_irIn, onSignal_aIn, onSignal_bIn, onSignal_outIn, onSignal_ramIn,
    onSignal_jump]
  rcases apart with apart | apart
  · rw [apart]; rfl
  · rw [apart]; rfl

/-- The effect of a set that R116 does not refuse, element by element. -/
theorem applyPhases_eq {g : SignalSet} (one : producerCount g ≤ 1) (apart : g.loadMAR = false ∨ g.ramIn = false) (s : State) :
    applyPhases g s = { s with
      bus := settledBus g s
      aluResult := if g.aluOut then (alu s.a s.b g.subtract).result else s.aluResult
      zero := if g.aluOut then (alu s.a s.b g.subtract).zero else s.zero
      carry := if g.aluOut then (alu s.a s.b g.subtract).carry else s.carry
      mar := if g.loadMAR then settledBus g s else s.mar
      ir := if g.irIn then settledBus g s else s.ir
      a := if g.aIn then settledBus g s else s.a
      b := if g.bIn then settledBus g s else s.b
      out := if g.outIn then settledBus g s else s.out
      ram := if g.ramIn then memWrite s.ram s.mar (settledBus g s) else s.ram
      pc := (if g.jump then settledBus g s else s.pc) + (if g.counterEnable then 1#4 else 0#4)
      halted := s.halted || g.halt } := by
  rw [applyPhases, applyProducers_eq one, applyConsumers_eq apart, applyLast, onSignal_counterEnable, onSignal_halt]

/-! ### The tick -/

theorem tickSignals_producerCount (s : State) : producerCount (tickSignals s) ≤ 1 :=
  atMostOneProducerPerTick s.ir s.stepCtr s.zero s.carry

theorem tickSignals_loadMAR_or_ramIn (s : State) : (tickSignals s).loadMAR = false ∨ (tickSignals s).ramIn = false := by
  cases write : (tickSignals s).ramIn with
  | false => exact .inr rfl
  | true => exact .inl (aOut_and_not_loadMAR_of_ramIn write).2

/-- A running tick, element by element (R90). -/
theorem tick_eq {s : State} (running : s.halted = false) : tick s = {
    bus := settledBus (tickSignals s) s
    aluResult := if (tickSignals s).aluOut then (alu s.a s.b (tickSignals s).subtract).result else s.aluResult
    zero := if (tickSignals s).aluOut then (alu s.a s.b (tickSignals s).subtract).zero else s.zero
    carry := if (tickSignals s).aluOut then (alu s.a s.b (tickSignals s).subtract).carry else s.carry
    mar := if (tickSignals s).loadMAR then settledBus (tickSignals s) s else s.mar
    ir := if (tickSignals s).irIn then settledBus (tickSignals s) s else s.ir
    a := if (tickSignals s).aIn then settledBus (tickSignals s) s else s.a
    b := if (tickSignals s).bIn then settledBus (tickSignals s) s else s.b
    out := if (tickSignals s).outIn then settledBus (tickSignals s) s else s.out
    ram := if (tickSignals s).ramIn then memWrite s.ram s.mar (settledBus (tickSignals s) s) else s.ram
    pc := (if (tickSignals s).jump then settledBus (tickSignals s) s else s.pc) +
      (if (tickSignals s).counterEnable then 1#4 else 0#4)
    halted := (tickSignals s).halt
    signals := tickSignals s
    stepCtr := s.stepCtr + 1#3 } := by
  rw [tick_of_running running, applyPhases_eq (tickSignals_producerCount s) (tickSignals_loadMAR_or_ramIn s),
    recordSignals_halted, running, Bool.false_or]
  rfl

theorem applySignalSet_eq {g : SignalSet} (one : producerCount g ≤ 1) (apart : g.loadMAR = false ∨ g.ramIn = false)
    (s : State) : applySignalSet g s = .next (applyPhases g s) := by
  have notBoth : ¬ ((g.loadMAR && g.ramIn) = true) := by
    rcases apart with h | h <;> simp [h]
  rw [applySignalSet, if_neg (Nat.not_lt.2 one), if_neg notBoth]

/-! ### The obligations -/

/-- Settles O17: the tick is `tick_eq`. -/
theorem tickChangesEachElementAsTheSpecSays : Obligations.TickChangesEachElementAsTheSpecSays :=
  ⟨fun _ => tick_of_halted, fun _ => tick_eq⟩

/-- Settles O31: the table's sets pass both guards, each guard refuses its sets, and any other set has `applyPhases_eq`. -/
theorem onlySetsOutsideTheTableAreRefused : Obligations.OnlySetsOutsideTheTableAreRefused := by
  refine ⟨fun s => applySignalSet_eq (tickSignals_producerCount s) (tickSignals_loadMAR_or_ramIn s) s,
    fun g s two => if_pos two, fun g s one loads writes => ?_,
    fun g s one apart => ⟨applySignalSet_eq one apart s, applyPhases_eq one apart s⟩⟩
  rw [applySignalSet, if_neg (Nat.not_lt.2 one), loads, writes]
  rfl

end Sys2Proof.Machine

/-!
PROOFS. The elements of the state one at a time: which tick writes each register (spec/10_state.md R12 to R17), the step
counter (R21, R113) and HALTED (R22, R114).
-/

namespace Sys2Proof.Machine

/-! ### The bus on a tick, by producer -/

theorem tickBus_of_counterOut {s : State} (h : (tickSignals s).counterOut = true) : settledBus (tickSignals s) s = s.pc :=
  if_pos h

theorem tickBus_of_ramOut {s : State} (h : (tickSignals s).ramOut = true) :
    settledBus (tickSignals s) s = memRead s.ram s.mar := by
  have notCounterOut : ¬ (tickSignals s).counterOut = true :=
    controlDecode_of_decoderImage (ψ := fun g => g.ramOut = true → ¬ g.counterOut = true) (fun _ => id) (by decide) _ _ _ _ h
  rw [settledBus, if_neg notCounterOut, if_pos h]

theorem tickBus_of_aOut {s : State} (h : (tickSignals s).aOut = true) : settledBus (tickSignals s) s = s.a := by
  have only : (tickSignals s).counterOut = false ∧ (tickSignals s).ramOut = false ∧ (tickSignals s).irOut = false :=
    controlDecode_of_decoderImage (ψ := fun g => g.aOut = true → g.counterOut = false ∧ g.ramOut = false ∧ g.irOut = false)
      (fun _ => id) (by decide) _ _ _ _ h
  simp [settledBus, h, only]

/-! ### The ALU's result on nibbles -/

theorem alu_add_result (a b : Nibble) : (alu a b false).result = a + b := by
  apply BitVec.eq_of_toNat_eq
  rw [alu_add_result_toNat, BitVec.toNat_add]

theorem alu_sub_result (a b : Nibble) : (alu a b true).result = a - b := by
  apply BitVec.eq_of_toNat_eq
  rw [alu_sub_result_toNat, BitVec.toNat_sub]
  omega

/-! ### The registers and RAM -/

theorem tick_mar {s : State} (running : s.halted = false) : (tick s).mar =
    if s.stepCtr = 0#3 ∨ s.stepCtr = 3#3 ∧ takesOperand s.ir = true then s.pc
    else if s.stepCtr = 4#3 ∧ s.ir ∈ [0x1#4, 0x2#4, 0x3#4, 0x4#4] then memRead s.ram s.mar else s.mar := by
  have sites := controlDecode_loadMAR_iff s.ir s.stepCtr s.zero s.carry
  by_cases loads : (tickSignals s).loadMAR = true
  · rw [tick_eq running, if_pos loads]
    have site := sites.1 loads
    by_cases step4 : s.stepCtr = 4#3
    · rw [tickBus_of_ramOut (ramOut_of_loadMAR_step4 loads step4)]
      simp_all
    · rw [tickBus_of_counterOut (counterOut_of_loadMAR_not_step4 loads step4)]
      simp_all
  · obtain ⟨notStep0, notStep3, notStep4⟩ := not_or.1 (mt sites.2 loads) |>.imp_right not_or.1
    rw [tick_eq running, if_neg loads, if_neg (not_or.2 ⟨notStep0, notStep3⟩), if_neg notStep4]

theorem tick_b {s : State} (running : s.halted = false) : (tick s).b =
    if s.stepCtr = 5#3 ∧ (s.ir = 0x2#4 ∨ s.ir = 0x3#4) then memRead s.ram s.mar else s.b := by
  have sites : (tickSignals s).bIn = true ↔ s.stepCtr = 5#3 ∧ (s.ir = 0x2#4 ∨ s.ir = 0x3#4) := by
    simpa [tickSignals] using controlDecode_bIn_iff s.ir s.stepCtr s.zero s.carry
  rw [tick_eq running]
  exact ite_congr (propext sites) (fun site => tickBus_of_ramOut (controlDecode_comesWith rfl (by simp) (sites.2 site)))
    fun _ => rfl

theorem tick_out {s : State} (running : s.halted = false) : (tick s).out =
    if s.stepCtr = 3#3 ∧ s.ir = 0xE#4 then s.a else s.out := by
  have sites : (tickSignals s).outIn = true ↔ s.stepCtr = 3#3 ∧ s.ir = 0xE#4 := controlDecode_outIn_iff _ _ _ _
  rw [tick_eq running]
  exact ite_congr (propext sites) (fun site => tickBus_of_aOut (controlDecode_comesWith rfl (by simp) (sites.2 site)))
    fun _ => rfl

theorem tick_ram {s : State} (running : s.halted = false) : (tick s).ram =
    if s.stepCtr = 5#3 ∧ s.ir = 0x4#4 then memWrite s.ram s.mar s.a else s.ram := by
  have sites : (tickSignals s).ramIn = true ↔ s.stepCtr = 5#3 ∧ s.ir = 0x4#4 := controlDecode_ramIn_iff _ _ _ _
  rw [tick_eq running]
  refine ite_congr (propext sites) (fun site => ?_) fun _ => rfl
  rw [tickBus_of_aOut (aOut_and_not_loadMAR_of_ramIn (sites.2 site)).1]

theorem tick_a {s : State} (running : s.halted = false) : (tick s).a =
    if s.stepCtr = 4#3 ∧ s.ir = 0x5#4 ∨ s.stepCtr = 5#3 ∧ s.ir = 0x1#4 then memRead s.ram s.mar
    else if s.stepCtr = 6#3 ∧ s.ir = 0x2#4 then s.a + s.b
    else if s.stepCtr = 6#3 ∧ s.ir = 0x3#4 then s.a - s.b else s.a := by
  split
  next toA =>
    obtain ⟨step4, isLdi⟩ | ⟨step5, isLda⟩ := toA
    · rw [tick_operandToA running (by simp [tickSignals, step4, isLdi])]
    · rw [tick_cellToA running (by simp [tickSignals, step5, isLda])]
  next notToA =>
    split
    next add => rw [tick_aluAdd running (by simp [tickSignals, add]), ← alu_add_result]; rfl
    next notAdd =>
      split
      next sub => rw [tick_aluSub running (by simp [tickSignals, sub]), ← alu_sub_result]; rfl
      next notSub =>
        have effect := tick_cases running
        generalize tick s = t at effect
        cases effect with
        | operandToA site => exact absurd (.inl site) notToA
        | cellToA site => exact absurd (.inr site) notToA
        | aluAdd site => exact absurd site notAdd
        | aluSub site => exact absurd site notSub
        | _ => rfl

/-- PC moves at step 1, and at step 4 of format M. -/
theorem controlDecode_counterEnable_or_jump_iff (op : Nibble) (k : StepNo) (z c : Bool) :
    (controlDecode op k z c).counterEnable = true ∨ (controlDecode op k z c).jump = true ↔
      k = 1#3 ∨ k = 4#3 ∧ takesOperand op = true := by
  simpa [takesOperand_iff, or_assoc, Bool.or_not_self] using
    controlDecode_sites (φ := fun g => g.counterEnable = true ∨ g.jump = true) nofun op k z c

theorem tick_pc {s : State} (running : s.halted = false) : (tick s).pc =
    if s.stepCtr = 1#3 then s.pc + 1#4
    else if s.stepCtr = 4#3 ∧ (s.ir = 0x6#4 ∨ s.ir = 0x7#4 ∧ s.carry = true ∨ s.ir = 0x8#4 ∧ s.zero = true)
      then memRead s.ram s.mar
    else if s.stepCtr = 4#3 ∧ takesOperand s.ir = true then s.pc + 1#4 else s.pc := by
  have jumps := controlDecode_jump_iff s.ir s.stepCtr s.zero s.carry
  have moves : (tickSignals s).counterEnable = true ∨ (tickSignals s).jump = true ↔
      s.stepCtr = 1#3 ∨ s.stepCtr = 4#3 ∧ takesOperand s.ir = true := controlDecode_counterEnable_or_jump_iff _ _ _ _
  split
  next step1 => rw [tick_step1 running step1]; rfl
  next notStep1 =>
    split
    next taken =>
      have jump : (tickSignals s).jump = true := jumps.2 taken
      obtain ⟨ramOut, noCount⟩ := ramOut_and_not_counterEnable_of_jump jump
      rw [tick_eq running, if_pos jump, tickBus_of_ramOut ramOut, tickSignals, noCount]
      exact BitVec.add_zero _
    next notTaken =>
      have noJump : ¬ (tickSignals s).jump = true := mt jumps.1 notTaken
      have counts : (tickSignals s).counterEnable = true ↔ s.stepCtr = 4#3 ∧ takesOperand s.ir = true := by
        simpa [noJump, notStep1] using moves
      rw [tick_eq running, if_neg noJump]
      simp only [counts]
      split
      next => rfl
      next => exact BitVec.add_zero _

/-! ### HALTED -/

theorem controlDecode_halt_iff (op : Nibble) (k : StepNo) (z c : Bool) :
    (controlDecode op k z c).halt = true ↔ k = 3#3 ∧ op = 0xF#4 := by
  simpa using controlDecode_sites (φ := (·.halt = true)) nofun op k z c

/-- A tick halts the machine at step 3 of HLT only (R107). -/
theorem tick_halted_iff {s : State} (running : s.halted = false) :
    (tick s).halted = true ↔ s.ir = 0xF#4 ∧ s.stepCtr = 3#3 := by
  rw [tick_eq running, and_comm]
  exact controlDecode_halt_iff s.ir s.stepCtr s.zero s.carry

/-- The tick that asserts Halt runs to its end (R107, D3). -/
theorem tick_hlt {s : State} (running : s.halted = false) (isHlt : s.ir = 0xF#4) (step3 : s.stepCtr = 3#3) :
    tick s = { s with halted := true, signals := sigHalt, stepCtr := 4#3 } := by
  have emitted : tickSignals s = sigHalt := by simp [tickSignals, isHlt, step3]
  rw [tick_halt running emitted, emitted, step3]
  rfl

/-! ### The step counter -/

theorem tick_stepCtr {s : State} (running : s.halted = false) : (tick s).stepCtr = s.stepCtr + 1#3 := by
  rw [tick_eq running]

theorem applyEvent_stepCtr {e : Event} {s t : State} (h : applyEvent e s = .next t) :
    t.stepCtr = if e = .reset then 0#3 else if e = .tick ∧ s.halted = false then s.stepCtr + 1#3 else s.stepCtr := by
  rcases applyEvent_cases h with ⟨rfl, rfl⟩ | ⟨rfl, rfl⟩ | ⟨notTick, notReset, m, rfl, -⟩
  · rcases Bool.eq_false_or_eq_true s.halted with halted | running
    · simp [tick_of_halted halted, halted]
    · simp [tick_stepCtr running, running]
  · rfl
  · simp [notTick, notReset]

/-! ### The ticks of one cycle -/

theorem tickN_succ_last (n : Nat) (s : State) : tickN (n + 1) s = tick (tickN n s) := tickN_add n 1 s

theorem running_of_tick_running {s : State} (h : (tick s).halted = false) : s.halted = false := by
  by_contra halted
  rw [Bool.not_eq_false] at halted
  rw [tick_of_halted halted, halted] at h
  cases h

/-- As long as the machine runs, the step counter counts the ticks (R113). -/
theorem tickN_stepCtr {n : Nat} {s : State} (running : (tickN n s).halted = false) :
    (tickN n s).stepCtr.toNat = (s.stepCtr.toNat + n) % 8 := by
  induction n with
  | zero => exact (Nat.mod_eq_of_lt s.stepCtr.isLt).symm
  | succ n ih =>
    rw [tickN_succ_last] at running ⊢
    have before := running_of_tick_running running
    rw [tick_stepCtr before, BitVec.toNat_add, ih before, BitVec.toNat_one (by decide)]
    omega

theorem tickN_succ_stepCtr {n : Nat} {s : State} (before : (tickN n s).halted = false) :
    (tickN (n + 1) s).stepCtr.toNat = (s.stepCtr.toNat + (n + 1)) % 8 := by
  rw [tickN_succ_last, tick_stepCtr before, BitVec.toNat_add, tickN_stepCtr before, BitVec.toNat_one (by decide)]
  omega

/-- From step 3 to the end of the cycle IR keeps the opcode, halted or not (R100). -/
theorem tickN_ir {n : Nat} {s : State} (fetched : 3 ≤ s.stepCtr.toNat) (withinCycle : s.stepCtr.toNat + n ≤ 8) :
    (tickN n s).ir = s.ir := by
  induction n with
  | zero => rfl
  | succ n ih =>
    rw [tickN_succ_last, ← ih (by omega)]
    rcases Bool.eq_false_or_eq_true (tickN n s).halted with halted | running
    · rw [tick_of_halted halted]
    · have counter := tickN_stepCtr running
      have notStep2 : (tickN n s).stepCtr ≠ 2#3 := by
        intro step2
        rw [step2, Nat.mod_eq_of_lt (by omega)] at counter
        simp at counter
        omega
      rw [tick_ir running, if_neg notStep2]

/-- Within the cycle that begins at a boundary, the machine is halted exactly after the four first ticks of an HLT
(R107, R132). -/
theorem tickN_halted_iff {s : State} (boundary : AtBoundary s) {n : Nat} (withinCycle : n ≤ 8) :
    (tickN n s).halted = true ↔ memRead s.ram s.pc = 0xF#4 ∧ 4 ≤ n := by
  obtain ⟨step0, running⟩ := boundary
  induction n with
  | zero => simp [running]
  | succ n ih =>
    have ih := ih (by omega)
    rw [tickN_succ_last]
    rcases Bool.eq_false_or_eq_true (tickN n s).halted with halted | notYet
    · obtain ⟨isHlt, four⟩ := ih.1 halted
      rw [tick_of_halted halted]
      exact ⟨fun _ => ⟨isHlt, by omega⟩, fun _ => halted⟩
    · have counter : (tickN n s).stepCtr.toNat = n := by
        rw [tickN_stepCtr notYet, step0]
        exact (Nat.zero_add n).symm ▸ Nat.mod_eq_of_lt (by omega)
      rw [tick_halted_iff notYet]
      constructor
      · intro ⟨isHlt, step3⟩
        obtain rfl : 3 = n := by rw [← counter, step3]; rfl
        rw [tickN_fetch step0 running] at isHlt
        exact ⟨isHlt, by omega⟩
      · intro ⟨isHlt, four⟩
        have notFour : ¬ 4 ≤ n := fun four => by simp [ih.2 ⟨isHlt, four⟩] at notYet
        obtain rfl : n = 3 := by omega
        rw [tickN_fetch step0 running]
        exact ⟨isHlt, rfl⟩

/-! ### The obligations -/

/-- Settles O27, register by register; `tick_ir` is R100's. -/
theorem registersChangeOnlyAtTheirWriteSites : Obligations.RegistersChangeOnlyAtTheirWriteSites := fun _ running =>
  ⟨tick_a running, tick_b running, tick_out running, tick_ir running, tick_mar running, tick_pc running, tick_ram running⟩

/-- Settles O23 by the cases of an event: a tick halts at one site, Reset gives its fixed state, and no operation on RAM sees or
writes HALTED. -/
theorem haltedIsSetByHltAndClearedByReset : Obligations.HaltedIsSetByHltAndClearedByReset := by
  refine ⟨fun e s t h => ?events, fun s addr val words _ fits => ?_, rfl⟩
  case events =>
    rcases applyEvent_cases h with ⟨rfl, rfl⟩ | ⟨rfl, rfl⟩ | ⟨notTick, notReset, m, rfl, -⟩
    · refine ⟨fun running => ?_, fun halted => ?_, fun halted _ => tick_of_halted halted⟩
      · simp [tick_halted_iff running]
      · simp [tick_of_halted halted, halted]
    · exact ⟨fun _ => ⟨nofun, nofun⟩, fun _ => ⟨fun _ => rfl, fun _ => rfl⟩, fun _ => nofun⟩
    · exact ⟨fun running => by simp [running, notTick], fun halted => by simp [halted, notReset],
        fun _ isTick => absurd isTick notTick⟩
  · have fits : imageFits words = true := decide_eq_true fits
    exact ⟨rfl, by rw [applyEvent, ramLoadProgram, if_pos fits], rfl, rfl⟩

/-- Settles O24: one event at a time, then the eight ticks from a boundary, where `tickN_halted_iff` tells when the counting
stops. -/
theorem stepCounterAdvancesEveryTick : Obligations.StepCounterAdvancesEveryTick := by
  refine ⟨fun e s t h => applyEvent_stepCtr h, fun s boundary notHlt n withinCycle => ?_,
    fun s boundary isHlt n fourTicks => ?_, rfl⟩
  · have running : (tickN n s).halted = false := by
      rw [← Bool.not_eq_true, tickN_halted_iff boundary withinCycle]
      exact fun site => notHlt site.1
    rw [tickN_stepCtr running, boundary.1]
    exact ⟨congrArg (· % 8) (Nat.zero_add n), running⟩
  · have halted : (tickN n s).halted = true ↔ n = 4 := by
      rw [tickN_halted_iff boundary (by omega)]
      exact ⟨fun site => by omega, fun four => ⟨isHlt, by omega⟩⟩
    refine ⟨?_, halted⟩
    cases n with
    | zero => rw [tickN_zero, boundary.1]; rfl
    | succ m =>
      have before : (tickN m s).halted = false := by
        rw [← Bool.not_eq_true, tickN_halted_iff boundary (by omega)]
        omega
      rw [tickN_succ_stepCtr before, boundary.1]
      exact (Nat.zero_add (m + 1)).symm ▸ Nat.mod_eq_of_lt (by omega)

/-- Settles O25: a halted tick is the identity, `tick_hlt` is the halting tick, and no other event reads HALTED. -/
theorem haltedTicksChangeNothing : Obligations.HaltedTicksChangeNothing := by
  refine ⟨fun n s => tickN_of_halted n, fun s => tick_hlt, fun e s t notTick _ h => ?_⟩
  rcases applyEvent_cases h with ⟨isTick, -⟩ | ⟨rfl, rfl⟩ | ⟨-, -, m, rfl, onRam⟩
  · exact absurd isTick notTick
  · rfl
  · exact onRam _ rfl

end Sys2Proof.Machine

/-!
PROOFS. The net effect of each instruction (spec/41_implied.md, 42_load_store.md, 43_arithmetic.md, 44_jumps.md), the flags of
the ALU (spec/43_arithmetic.md R152), and what each instruction leaves unchanged.
-/

namespace Sys2Proof.Machine

/-! ### The zero flag of both operations -/

theorem alu_add_zero (a b : Nibble) : (alu a b false).zero = decide ((a.toNat + b.toNat) % 16 = 0) := by
  rw [alu_zero, decide_eq_decide, ← BitVec.toNat_inj, alu_add_result_toNat]
  rfl

theorem alu_sub_zero (a b : Nibble) : (alu a b true).zero = decide (a = b) := by
  rw [alu_zero, alu_sub_result, decide_eq_decide]
  exact sub_eq_zero

/-! ### PC past an operand, and at a jump's target -/

theorem regIncrement_twice (x : Nibble) : regIncrement (regIncrement x) = x + 2#4 := BitVec.add_assoc x 1#4 1#4

theorem operandToPcIf_eq (taken : Bool) (q : Nibble) (s : State) :
    operandToPcIf taken q s = { s with bus := q, pc := if taken then q else regIncrement s.pc } := by
  cases taken <;> rfl

/-! ### The instructions -/

/-- Settles O33: a sum is below 32, and a zero difference has equal operands, hence no borrow. -/
theorem zeroAndCarryTogetherOnlyAtSixteen : Obligations.ZeroAndCarryTogetherOnlyAtSixteen := by
  intro a b
  have sumCarry : (alu a b false).carry = decide (15 < a.toNat + b.toNat) := rfl
  have borrow : (alu a b true).carry = decide (a.toNat < b.toNat) := rfl
  simp only [alu_add_zero, alu_sub_zero, sumCarry, borrow, decide_eq_true_eq, true_and]
  refine ⟨by omega, ?_⟩
  rintro ⟨rfl, less⟩
  exact Nat.lt_irrefl _ less

/-- Settles O42: the fetch alone (R130, R133). -/
theorem nopAndReservedOnlyMoveOn : Obligations.NopAndReservedOnlyMoveOn :=
  fun _ => ⟨rfl, rfl, rfl, rfl, rfl, rfl⟩

/-- Settles O43: the fetch, then A to OUT over the bus (R131). -/
theorem outCopiesTheAccumulator : Obligations.OutCopiesTheAccumulator := fun _ => rfl

/-- Settles O44: the fetch, then the halting tick (R132). -/
theorem hltHaltsPastItself : Obligations.HltHaltsPastItself := fun _ => rfl

/-- Settles O45: PC passes the opcode and the operand (R141). -/
theorem ldiLoadsTheImmediate : Obligations.LdiLoadsTheImmediate := by
  intro s q
  rw [← regIncrement_twice]
  rfl

/-- Settles O46: MAR holds the operand when the cell is read (R142). -/
theorem ldaLoadsTheCell : Obligations.LdaLoadsTheCell := by
  intro s q
  rw [← regIncrement_twice]
  rfl

/-- STA's whole next state; the memory law then says what its cells read as. -/
theorem exec_sta (s : State) (q : Nibble) : exec (.sta q) s = .next { s with
    ram := memWrite s.ram q s.a, pc := s.pc + 2#4, mar := q, ir := 0x4#4, bus := s.a, signals := {}, stepCtr := 0#3 } := by
  rw [← regIncrement_twice]
  rfl

/-- Settles O47: one write to the canonical memory, at the operand (R143). -/
theorem staStoresTheAccumulator : Obligations.StaStoresTheAccumulator := by
  intro s q canonical
  exact ⟨_, exec_sta s q, rfl, memRead_memWrite_same canonical q s.a, fun addr other => memRead_memWrite_other s.ram s.a other,
    memWrite_wf canonical q s.a⟩

/-- Settles O48: the ALU adds A and the cell that B took (R155). -/
theorem addAddsTheCell : Obligations.AddAddsTheCell := by
  intro s q m
  rw [← regIncrement_twice, ← alu_add_zero, ← alu_add_result]
  rfl

/-- Settles O49: the ALU subtracts the cell that B took from A; the open Subtract of steps 3 to 5 does not occur (R156). -/
theorem subSubtractsTheCell : Obligations.SubSubtractsTheCell := by
  intro s q m
  rw [← regIncrement_twice, ← alu_sub_zero, ← alu_sub_result]
  rfl

/-- Settles O50: PC is replaced by the operand (R170). -/
theorem jmpReplacesPc : Obligations.JmpReplacesPc := fun _ _ => rfl

/-- Settles O51: the carry flag chooses between the operand and the increment (R171). -/
theorem jcJumpsOnCarry : Obligations.JcJumpsOnCarry := by
  intro s q
  rw [exec, execJc, operandToPcIf_eq, ← regIncrement_twice]
  rfl

/-- Settles O52: the zero flag chooses between the operand and the increment (R172). -/
theorem jzJumpsOnZero : Obligations.JzJumpsOnZero := by
  intro s q
  rw [exec, execJz, operandToPcIf_eq, ← regIncrement_twice]
  rfl

/-! ### What the instructions leave unchanged -/

/-- Settles O53, instruction by instruction, from its next state. -/
theorem instructionsLeaveTheRestUnchanged : Obligations.InstructionsLeaveTheRestUnchanged := by
  intro i s t h
  cases i with
  | lda q | ldi q => cases h; exact ⟨.inr ⟨q, by simp⟩, .inl ⟨rfl, rfl, rfl, rfl⟩, .inl rfl, .inl rfl, fun _ _ => rfl⟩
  | add q | sub q => cases h; exact ⟨.inr ⟨q, by simp⟩, .inr ⟨q, by simp⟩, .inl rfl, .inl rfl, fun _ _ => rfl⟩
  | sta q =>
    cases h
    refine ⟨.inl rfl, .inl ⟨rfl, rfl, rfl, rfl⟩, .inl rfl, .inl rfl, fun addr other => ?_⟩
    exact memRead_memWrite_other s.ram s.a fun same => other (congrArg Instr.sta same.symm)
  | jc q | jz q =>
    simp only [exec, execJc, execJz, operandToPcIf_eq] at h
    cases h
    exact ⟨.inl rfl, .inl ⟨rfl, rfl, rfl, rfl⟩, .inl rfl, .inl rfl, fun _ _ => rfl⟩
  | out => cases h; exact ⟨.inl rfl, .inl ⟨rfl, rfl, rfl, rfl⟩, .inr rfl, .inl rfl, fun _ _ => rfl⟩
  | hlt => cases h; exact ⟨.inl rfl, .inl ⟨rfl, rfl, rfl, rfl⟩, .inl rfl, .inr rfl, fun _ _ => rfl⟩
  | _ => cases h; exact ⟨.inl rfl, .inl ⟨rfl, rfl, rfl, rfl⟩, .inl rfl, .inl rfl, fun _ _ => rfl⟩

end Sys2Proof.Machine

/-!
PROOFS. The step as the rest of the instruction cycle (spec/00_scope.md R9, spec/40_control_unit.md R113, R119).
-/

namespace Sys2Proof.Machine

/-! ### The ticks of a cycle on the state they leave behind

In the middle of a cycle a state is what its instruction has done so far, with STEP and SIGNALS on top; no phase reads these
two. -/

/-- The state `s` at slot `k` of a cycle, the last tick having recorded `g`. -/
def inCycle (k : StepNo) (g : SignalSet) (s : State) : State := { s with stepCtr := k, signals := g }

/-- What slot `k` of the cycle does to the state, but for STEP and SIGNALS. -/
def slotEffect (k : StepNo) (s : State) : State := applyPhases (controlDecode s.ir k s.zero s.carry) s

/-- What slots 3 to 6 do together; slot 7 does nothing. -/
def execute (s : State) : State := slotEffect 6#3 (slotEffect 5#3 (slotEffect 4#3 (slotEffect 3#3 s)))

theorem slotEffect_eq_applyPhases (g : SignalSet) (k : StepNo) (s : State) :
    slotEffect k s = applyPhases (tickSignals (inCycle k g s)) s := rfl

theorem tickN_inCycle_succ {s : State} (running : s.halted = false) {k next : StepNo} (g : SignalSet) (hnext : k + 1#3 = next)
    (n : Nat) : tickN (n + 1) (inCycle k g s) =
      tickN n (inCycle next (controlDecode s.ir k s.zero s.carry) (slotEffect k s)) := by
  have tick : tick (inCycle k g s) = inCycle next (controlDecode s.ir k s.zero s.carry) (slotEffect k s) := by
    rw [tick_eq (s := inCycle k g s) running, slotEffect_eq_applyPhases g,
      applyPhases_eq (tickSignals_producerCount _) (tickSignals_loadMAR_or_ramIn _), running, Bool.false_or, ← hnext]
    rfl
  rw [tickN_succ, tick]

/-- IR is written in slot 2 only, and HALTED in slot 3 of an HLT only. -/
theorem slotEffect_ir_halted {s : State} {k : StepNo} (notFetch : k ≠ 2#3) (notHlt : s.ir ≠ 0xF#4) :
    (slotEffect k s).ir = s.ir ∧ (slotEffect k s).halted = s.halted := by
  have noIrIn : ¬ (tickSignals (inCycle k noSignals s)).irIn = true := mt (controlDecode_irIn_iff ..).1 notFetch
  have noHalt : (tickSignals (inCycle k noSignals s)).halt = false := by
    rw [← Bool.not_eq_true]
    exact mt (controlDecode_halt_iff ..).1 fun site => notHlt site.2
  rw [slotEffect_eq_applyPhases noSignals, applyPhases_eq (tickSignals_producerCount _) (tickSignals_loadMAR_or_ramIn _)]
  exact ⟨if_neg noIrIn, by simp only [noHalt, Bool.or_false]⟩

theorem slotEffect_step7 (s : State) : slotEffect 7#3 s = s := by
  rw [slotEffect, controlDecode_at7, executeRow_step7, applyPhases_idle]

/-- Slots 3 to 7 of an opcode that does not halt. -/
theorem tickN_inCycle3 {s : State} (running : s.halted = false) (notHlt : s.ir ≠ 0xF#4) (g : SignalSet) :
    tickN 5 (inCycle 3#3 g s) = endCycle (execute s) := by
  have keeps {k : StepNo} {t : State} (notFetch : k ≠ 2#3) (h : t.halted = false ∧ t.ir ≠ 0xF#4) :
      (slotEffect k t).halted = false ∧ (slotEffect k t).ir ≠ 0xF#4 := by
    obtain ⟨ir, halted⟩ := slotEffect_ir_halted notFetch h.2
    exact ⟨halted ▸ h.1, ir ▸ h.2⟩
  have after3 := keeps (k := 3#3) (by decide) ⟨running, notHlt⟩
  have after4 := keeps (k := 4#3) (by decide) after3
  have after5 := keeps (k := 5#3) (by decide) after4
  have after6 := keeps (k := 6#3) (by decide) after5
  rw [tickN_inCycle_succ running (next := 4#3) g rfl, tickN_inCycle_succ after3.1 (next := 5#3) _ rfl,
    tickN_inCycle_succ after4.1 (next := 6#3) _ rfl, tickN_inCycle_succ after5.1 (next := 7#3) _ rfl,
    tickN_inCycle_succ after6.1 (next := 0#3) _ rfl, controlDecode_at7, executeRow_step7, slotEffect_step7]
  rfl

/-! ### Slots 3 to 6 of each row of R111 -/

section Rows

variable {s : State}

theorem execute_idle (h : s.ir ∈ [0x0#4, 0x9#4, 0xA#4, 0xB#4, 0xC#4, 0xD#4]) : execute s = s := by
  have noSet (k : StepNo) (atLeast3 : 3 ≤ k.toNat) : slotEffect k s = s := by
    rw [slotEffect, (controlDecode_idle_iff s.ir k s.zero s.carry).2 (.inl ⟨atLeast3, h⟩), applyPhases_idle]
  rw [execute, noSet 3#3 (by decide), noSet 4#3 (by decide), noSet 5#3 (by decide), noSet 6#3 (by decide)]

theorem execute_lda (h : s.ir = 0x1#4) :
    execute s = cellToA (operandToMar (memRead s.ram s.pc) (addressOperand s)) := by
  simp [execute, slotEffect, h, cellToA, operandToMar, addressOperand]

theorem execute_add (h : s.ir = 0x2#4) :
    execute s = aluToA false (cellToB (operandToMar (memRead s.ram s.pc) (addressOperand s))) := by
  simp [execute, slotEffect, h, cellToB, operandToMar, addressOperand]

/-- The open Subtract of slots 3 to 5 has no effect (R98, D4). -/
theorem execute_sub (h : s.ir = 0x3#4) :
    execute s = aluToA true (cellToB (operandToMar (memRead s.ram s.pc) (addressOperand s))) := by
  simp [execute, slotEffect, h, cellToB, operandToMar, addressOperand]

theorem execute_sta (h : s.ir = 0x4#4) :
    execute s = aToCell (operandToMar (memRead s.ram s.pc) (addressOperand s)) := by
  simp [execute, slotEffect, h, aToCell, operandToMar, addressOperand]

theorem execute_ldi (h : s.ir = 0x5#4) : execute s = operandToA (memRead s.ram s.pc) (addressOperand s) := by
  simp [execute, slotEffect, h, operandToA, addressOperand]

theorem execute_jmp (h : s.ir = 0x6#4) : execute s = operandToPc (memRead s.ram s.pc) (addressOperand s) := by
  simp [execute, slotEffect, h, operandToPc, addressOperand]

theorem execute_jc (h : s.ir = 0x7#4) : execute s = operandToPcIf s.carry (memRead s.ram s.pc) (addressOperand s) := by
  cases taken : s.carry with
  | true => simp [execute, slotEffect, h, taken, operandToPcIf_eq, addressOperand]
  | false => simp [execute, slotEffect, h, taken, operandToPcIf_eq, addressOperand]

theorem execute_jz (h : s.ir = 0x8#4) : execute s = operandToPcIf s.zero (memRead s.ram s.pc) (addressOperand s) := by
  cases taken : s.zero with
  | true => simp [execute, slotEffect, h, taken, operandToPcIf_eq, addressOperand]
  | false => simp [execute, slotEffect, h, taken, operandToPcIf_eq, addressOperand]

theorem execute_out (h : s.ir = 0xE#4) : execute s = aToOut s := by
  simp [execute, slotEffect, h, aToOut]

end Rows

/-! ### The instructions as ticks -/

/-- The meaning of an instruction that does not halt is its fetch and its row's slots, with the operand that the operand slot
reads. -/
theorem exec_decodePair {op : Nibble} (notHlt : op ≠ 0xF#4) (s : State) :
    exec (decodePair op (operandAt s)) s = .next (endCycle (execute (fetchOpcode op s))) := by
  rcases opcode_cases op with
    rfl | rfl | rfl | rfl | rfl | rfl | rfl | rfl | rfl | rfl | rfl | rfl | rfl | rfl | rfl | rfl
  · rw [execute_idle (by simp)]; rfl
  · rw [execute_lda rfl]; rfl
  · rw [execute_add rfl]; rfl
  · rw [execute_sub rfl]; rfl
  · rw [execute_sta rfl]; rfl
  · rw [execute_ldi rfl]; rfl
  · rw [execute_jmp rfl]; rfl
  · rw [execute_jc rfl]; rfl
  · rw [execute_jz rfl]; rfl
  · rw [execute_idle (by simp)]; rfl
  · rw [execute_idle (by simp)]; rfl
  · rw [execute_idle (by simp)]; rfl
  · rw [execute_idle (by simp)]; rfl
  · rw [execute_idle (by simp)]; rfl
  · rw [execute_out rfl]; rfl
  · exact absurd rfl notHlt

theorem tickN_fetch_inCycle {s : State} (boundary : AtBoundary s) :
    tickN 3 s = inCycle 3#3 sigFetch (fetchOpcode (opcodeAt s) s) :=
  tickN_fetch boundary.1 boundary.2

/-- At a boundary the meaning of the fetched instruction is the eight ticks of its cycle (R119). -/
theorem exec_fetchInstr {s : State} (boundary : AtBoundary s) : exec (fetchInstr s) s = .next (tickN 8 s) := by
  have running : (fetchOpcode (opcodeAt s) s).halted = false := boundary.2
  rw [fetchInstr, tickN_add 3 5, tickN_fetch_inCycle boundary]
  by_cases isHlt : opcodeAt s = 0xF#4
  · have halts : tick (inCycle 3#3 sigFetch (fetchOpcode 0xF#4 s)) = haltCycle (fetchOpcode 0xF#4 s) :=
      tick_hlt boundary.2 rfl rfl
    rw [isHlt, tickN_succ, halts, tickN_of_halted 4 rfl]
    rfl
  · rw [exec_decodePair isHlt, tickN_inCycle3 running isHlt]

/-- A step is the ticks that are left of the cycle (R32, R113, R119; logs 1, 16). -/
theorem step_eq (s : State) : step s = .next (tickN (8 - s.stepCtr.toNat) s) := by
  rcases step_cases s with ⟨halted, same⟩ | ⟨running, step0, whole⟩ | ⟨running, notStep0, rest⟩
  · rw [same, tickN_of_halted _ halted]
  · rw [whole, exec_fetchInstr ⟨step0, running⟩, step0]
    rfl
  · exact rest

theorem step_eq_of_boundary {s : State} (boundary : AtBoundary s) : step s = .next (tickN 8 s) := by
  rw [step_eq, boundary.1]
  rfl

/-! ### The instruction at PC -/

theorem decode_pair {op q : Nibble} {i : Instr} {rest : List Nibble} (h : decode [op, q] = .ok (i, rest)) :
    decodePair op q = i := by
  cases format : takesOperand op with
  | true =>
    rw [decode_with_operand format] at h
    cases h
    rfl
  | false =>
    rw [decode_opcode_only format] at h
    cases h
    exact decodePair_ignores_operand format q

theorem regIncrement_ne (x : Nibble) : regIncrement x ≠ x := by
  revert x
  decide

/-- The two nibbles placed at PC are the two that the fetch reads: they stand in different cells. -/
theorem fetchInstr_placeAtPc {s : State} (canonical : s.ram.wf = true) (op q : Nibble) :
    fetchInstr (placeAtPc op q s) = decodePair op q := by
  have opcode : memRead (placeAtPc op q s).ram s.pc = op := by
    rw [placeAtPc_ram, memRead_memWrite_other _ q (regIncrement_ne s.pc).symm, memRead_memWrite_same canonical]
  have operand : memRead (placeAtPc op q s).ram (regIncrement s.pc) = q := by
    rw [placeAtPc_ram, memRead_memWrite_same (memWrite_wf canonical s.pc op)]
  rw [fetchInstr, opcodeAt, operandAt, placeAtPc_pc, opcode, operand]

theorem decodePair_of_decodeTableWord {nbits w : Nat} {i : Instr} (h : decodeTableWord nbits w = some i) :
    decodePair (tableOpcode nbits w) (tableOperand nbits w) = i := by
  rw [decodeTableWord] at h
  split at h
  next decodes => cases h; exact decode_pair decodes
  next => cases h

/-! ### PC after an instruction -/

theorem pc_of_exec_decodePair {op q : Nibble} {s t : State} (h : exec (decodePair op q) s = .next t) :
    t.pc = if takesOperand op = false then s.pc + 1#4
      else if op = 0x6#4 ∨ op = 0x7#4 ∧ s.carry = true ∨ op = 0x8#4 ∧ s.zero = true then q
      else s.pc + 2#4 := by
  rcases opcode_cases op with
    rfl | rfl | rfl | rfl | rfl | rfl | rfl | rfl | rfl | rfl | rfl | rfl | rfl | rfl | rfl | rfl
  · cases h; rfl
  · cases (ldaLoadsTheCell s q).symm.trans h; rfl
  · cases (addAddsTheCell s q).symm.trans h; rfl
  · cases (subSubtractsTheCell s q).symm.trans h; rfl
  · cases (exec_sta s q).symm.trans h; rfl
  · cases (ldiLoadsTheImmediate s q).symm.trans h; rfl
  · cases (jmpReplacesPc s q).symm.trans h; rfl
  · cases (jcJumpsOnCarry s q).symm.trans h; simp [takesOperand]
  · cases (jzJumpsOnZero s q).symm.trans h; simp [takesOperand]
  · cases h; rfl
  · cases h; rfl
  · cases h; rfl
  · cases h; rfl
  · cases h; rfl
  · cases h; rfl
  · cases h; rfl

/-! ### The obligations -/

/-- Settles O7 by `step_eq`: at a boundary the instruction's meaning is its eight ticks, elsewhere the step is its ticks by
definition. -/
theorem stepIsTheRestOfTheCycle : Obligations.StepIsTheRestOfTheCycle := step_eq

/-- Settles O8: a step is its ticks, and of the events only a program image has a guard. -/
theorem everyStepHasANextState : Obligations.EveryStepHasANextState := by
  refine ⟨fun s => ⟨_, step_eq s⟩, fun n => ?runs, fun e s => ?events⟩
  case runs =>
    induction n with
    | zero => exact fun s => ⟨s, rfl⟩
    | succ n ih =>
      intro s
      rw [stepN, step_eq]
      exact ih _
  case events =>
    cases e with
    | ramLoadProgram words =>
      by_cases fits : words.length ≤ 16
      · exact .inl ⟨_, if_pos (decide_eq_true fits)⟩
      · exact .inr ⟨words, rfl, Nat.lt_of_not_le fits, if_neg fun h => fits (of_decide_eq_true h)⟩
    | _ => exact .inl ⟨_, rfl⟩

/-- Settles O5: the nibbles that decode to the instruction are those that the fetch reads. -/
theorem stepRunsTheDecodedInstruction : Obligations.StepRunsTheDecodedInstruction := by
  intro s i rest boundary decodes
  have fetched : fetchInstr s = i := decode_pair decodes
  rw [step_at_boundary boundary.2 boundary.1, fetched]

/-- Settles O6: the placing leaves a boundary, where the fetch reads the placed nibbles back. -/
theorem placedInstructionIsRunNext : Obligations.PlacedInstructionIsRunNext := by
  intro s nbits w i canonical decodes
  have fetched : fetchInstr (s.withFetchWord nbits w) = i :=
    (fetchInstr_placeAtPc canonical _ _).trans (decodePair_of_decodeTableWord decodes)
  rw [step_at_boundary rfl rfl, fetched]

/-- Settles O54: a step from a boundary is the meaning of the instruction at PC. -/
theorem pcMovesPastTheInstructionOrToItsTarget : Obligations.PcMovesPastTheInstructionOrToItsTarget := by
  intro s t boundary h
  rw [step_at_boundary boundary.2 boundary.1] at h
  exact pc_of_exec_decodePair h

/-- Settles O55: the step is the eight ticks of a cycle, which halt at an HLT only and otherwise bring STEP back to 0. -/
theorem runsEndOnlyAtHlt : Obligations.RunsEndOnlyAtHlt := by
  intro s t boundary h
  obtain rfl : tickN 8 s = t := Host.Outcome.next.inj ((step_eq_of_boundary boundary).symm.trans h)
  have ended : (tickN 8 s).halted = true ↔ memRead s.ram s.pc = 0xF#4 := by
    simpa using tickN_halted_iff boundary (Nat.le_refl 8)
  refine ⟨ended, fun again isHlt => ?_, fun notHlt => ?_⟩
  · exact Bool.false_ne_true (again.2.symm.trans (ended.2 isHlt))
  · have running : (tickN 8 s).halted = false := by
      rw [← Bool.not_eq_true, ended]
      exact notHlt
    refine ⟨BitVec.eq_of_toNat_eq ?_, running⟩
    rw [tickN_stepCtr running, boundary.1]
    rfl

end Sys2Proof.Machine

/-!
PROOFS. The invariant of reachable states (spec/10_state.md R25, R32): every event keeps it, hence every tick, every step and
every sequence of events.
-/

namespace Sys2Proof.Machine

/-! ### The record of the last tick -/

theorem executeRow_step6_flags (op : Nibble) (z z' c c' : Bool) : (executeRow op z c).step6 = (executeRow op z' c').step6 := by
  rcases opcode_cases op with
    rfl | rfl | rfl | rfl | rfl | rfl | rfl | rfl | rfl | rfl | rfl | rfl | rfl | rfl | rfl | rfl <;> rfl

/-- The decoder does not look at the opcode at step 2, nor at the flags at step 6 (R110, R111). -/
theorem controlDecode_congr {op op' : Nibble} {k : StepNo} {z z' c c' : Bool} (sameOp : k ≠ 2#3 → op = op')
    (sameFlags : k ≠ 6#3 → z = z' ∧ c = c') : controlDecode op k z c = controlDecode op' k z' c' := by
  by_cases step2 : k = 2#3
  · subst step2
    rfl
  · obtain rfl := sameOp step2
    by_cases step6 : k = 6#3
    · subst step6
      rw [controlDecode_at6, controlDecode_at6]
      exact executeRow_step6_flags ..
    · obtain ⟨rfl, rfl⟩ := sameFlags step6
      rfl

/-- What a running tick records is what its next state tells about it (R117): IR changes only where the decoder ignores it, and
so do the flags. -/
theorem tick_signals_recorded {s : State} (running : s.halted = false) : (tick s).signals = recordedSignals (tick s) := by
  have signals : (tick s).signals = tickSignals s := by rw [tick_eq running]
  have counter := tick_stepCtr running
  have before : (tick s).stepCtr - 1#3 = s.stepCtr := by rw [counter]; exact add_sub_cancel_right _ _
  rw [signals, recordedSignals, before]
  split
  next wraps =>
    have step7 : s.stepCtr = 7#3 := by rw [← before, wraps]; rfl
    rw [tickSignals, step7, controlDecode_at7, executeRow_step7]
  next =>
    refine controlDecode_congr (fun notStep2 => ?_) fun notStep6 => ?_
    · rw [tick_ir running, if_neg notStep2]
    · have noAlu : (tickSignals s).aluOut = false := by
        rw [← Bool.not_eq_true]
        exact mt (controlDecode_aluOut_iff ..).1 fun site => notStep6 site.1
      obtain ⟨_, zero, carry⟩ := tick_flags_of_no_aluOut (.inr noAlu)
      exact ⟨zero.symm, carry.symm⟩

/-! ### The clauses one by one -/

theorem tick_ram_wf {s : State} (canonical : s.ram.wf = true) : (tick s).ram.wf = true := by
  rcases Bool.eq_false_or_eq_true s.halted with halted | running
  · rwa [tick_of_halted halted]
  · rw [tick_ram running]
    split
    · exact memWrite_wf canonical s.mar s.a
    · exact canonical

theorem tick_zero_result {s : State} (inv : s.zero = true → s.aluResult = 0#4) :
    (tick s).zero = true → (tick s).aluResult = 0#4 := by
  rcases Bool.eq_false_or_eq_true s.halted with halted | running
  · rwa [tick_of_halted halted]
  · rw [tick_eq running]
    cases (tickSignals s).aluOut with
    | false => exact inv
    | true => simp [alu_zero]

/-- Every running tick keeps the invariant. The four clauses about MAR and IR speak of one step each, whose tick is known. -/
theorem Inv.tick_of_running {s : State} (inv : Inv s) (running : s.halted = false) : Inv (tick s) := by
  have counter := tick_stepCtr running
  have came {k : StepNo} (h : (tick s).stepCtr = k) : s.stepCtr = k - 1#3 := by
    rw [← h, counter]
    exact (add_sub_cancel_right _ _).symm
  constructor
  case memoryCanonical => exact tick_ram_wf inv.memoryCanonical
  case signalsRecorded => exact tick_signals_recorded running
  case haltedAfterHlt =>
    intro halts
    obtain ⟨isHlt, step3⟩ := (tick_halted_iff running).1 halts
    rw [tick_hlt running isHlt step3]
    exact ⟨isHlt, rfl⟩
  case zeroFromResult => exact tick_zero_result inv.zeroFromResult
  case marAtStep1 =>
    intro step1
    rw [tick_step0 running (came step1)]
  case marAtStep2 =>
    intro step2
    have step1 : s.stepCtr = 1#3 := came step2
    rw [tick_step1 running step1]
    exact congrArg regIncrement (inv.marAtStep1 step1)
  case opcodeAtStep3 =>
    intro step3
    have step2 : s.stepCtr = 2#3 := came step3
    rw [tick_step2 running step2]
    exact ⟨rfl, inv.marAtStep2 step2⟩
  case operandAddressAtStep4 =>
    intro step4 format
    have step3 : s.stepCtr = 3#3 := came step4
    rw [tick_ir running, if_neg (by simp [step3])] at format
    obtain ⟨b, emitted⟩ := controlDecode_addressOperand format s.zero s.carry
    rw [tick_addressByPc_subtract running (by rw [tickSignals, step3, emitted])]

theorem Inv.tick {s : State} (inv : Inv s) : Inv (tick s) := by
  rcases Bool.eq_false_or_eq_true s.halted with halted | running
  · rwa [tick_of_halted halted]
  · exact inv.tick_of_running running

theorem Inv.tickN {s : State} (inv : Inv s) (n : Nat) : Inv (tickN n s) := by
  induction n generalizing s with
  | zero => exact inv
  | succ n ih => exact ih inv.tick

/-- Only one clause speaks of memory. -/
theorem Inv.with_ram {s : State} (inv : Inv s) {m : Memory} (canonical : m.wf = true) : Inv { s with ram := m } :=
  { inv with memoryCanonical := canonical }

/-- The reset values meet every clause, whatever the canonical memory. -/
theorem inv_resetEvent {s : State} (canonical : s.ram.wf = true) : Inv (resetEvent s) := by
  constructor
  case memoryCanonical => exact canonical
  case signalsRecorded => rfl
  all_goals exact nofun

/-- Every operation of the host on RAM keeps the canonical form. -/
theorem applyEvent_ram_wf {e : Event} {s t : State} (canonical : s.ram.wf = true) (h : applyEvent e s = .next t) :
    t.ram.wf = true := by
  cases e with
  | tick => cases h; exact tick_ram_wf canonical
  | reset => cases h; exact canonical
  | ramWrite addr val => cases h; exact memWrite_wf canonical _ _
  | ramRead addr => cases h; exact canonical
  | ramLoadProgram words =>
    rw [applyEvent, ramLoadProgram] at h
    split at h
    next => cases h; exact loadFrom_wf words 0 canonical
    next => cases h

theorem Inv.applyEvent {s t : State} (inv : Inv s) {e : Event} (h : applyEvent e s = .next t) : Inv t := by
  have canonical := applyEvent_ram_wf inv.memoryCanonical h
  rcases applyEvent_cases h with ⟨-, rfl⟩ | ⟨-, rfl⟩ | ⟨-, -, m, rfl, -⟩
  · exact inv.tick
  · exact inv_resetEvent inv.memoryCanonical
  · exact inv.with_ram canonical

/-! ### The obligations -/

/-- Settles O34: the reset values, and RAM as it was. -/
theorem resetZeroesAllButRam : Obligations.ResetZeroesAllButRam := fun _ => rfl

/-- Settles O9: the state right after reset is what Reset makes of it. -/
theorem resetMeetsTheInvariant : Obligations.ResetMeetsTheInvariant := inv_resetEvent (s := State.reset) reset_memory_wf

/-- Settles O10: a step is a number of ticks, each of which keeps the invariant. -/
theorem stepsKeepTheInvariant : Obligations.StepsKeepTheInvariant := by
  intro s t inv h
  obtain rfl := Host.Outcome.next.inj ((step_eq s).symm.trans h)
  exact inv.tickN _

/-- Settles O11, by induction on the sequence of events. -/
theorem eventsKeepTheInvariant : Obligations.EventsKeepTheInvariant := by
  intro es
  induction es with
  | nil =>
    intro s t inv h
    cases h
    exact inv
  | cons e es ih =>
    intro s t inv h
    rw [applyEvents] at h
    split at h
    next u first => exact ih u t (inv.applyEvent first) h
    next => cases h
    next => cases h

end Sys2Proof.Machine

/-!
PROOFS. RAM: the canonical form, the operations of the host, and what ticks read and write (spec/20_memory.md R42 to R46, R56).
-/

namespace Sys2Proof.Machine

/-! ### Canonical memories are determined by their cells -/

theorem memLookup_of_ramWords_le {k lo : Nat} (h : Config.ramWords ≤ k) {m : Memory} (w : memWfFrom lo m = true) :
    memLookup k m = unlistedNibble := by
  induction m generalizing lo with
  | nil => rfl
  | cons c rest ih =>
    simp only [memWfFrom, cellWf, Bool.and_eq_true, decide_eq_true_eq] at w
    obtain ⟨⟨_, ⟨inRange, _⟩, _⟩, wRest⟩ := w
    rw [memLookup, if_neg (by omega)]
    exact ih wRest

/-- The first listed cell of a canonical memory tells it from every memory whose cells begin later. -/
theorem memLookup_first_ne {c : Host.Cell} {rest m : Memory} {lo lo' : Nat} (w : memWfFrom lo (c :: rest) = true)
    (later : c.1 < lo') (w' : memWfFrom lo' m = true) : memLookup c.1 (c :: rest) ≠ memLookup c.1 m := by
  simp only [memWfFrom, cellWf, Bool.and_eq_true, decide_eq_true_eq] at w
  obtain ⟨⟨_, _, listed⟩, _⟩ := w
  rwa [memLookup_of_lt later w', memLookup, if_pos rfl]

theorem memWfFrom_at_first {c : Host.Cell} {rest : Memory} {lo : Nat} (w : memWfFrom lo (c :: rest) = true) :
    memWfFrom c.1 (c :: rest) = true := by
  simp only [memWfFrom, Bool.and_eq_true, decide_eq_true_eq] at w ⊢
  exact ⟨⟨Nat.le_refl _, w.1.2⟩, w.2⟩

/-- What the canonical form says of the first listed cell and of the rest. -/
theorem memWfFrom_cons {c : Host.Cell} {rest : Memory} {lo : Nat} (w : memWfFrom lo (c :: rest) = true) :
    c.2.toNat < 16 ∧ memWfFrom (c.1 + 1) rest = true := by
  simp only [memWfFrom, cellWf, Bool.and_eq_true, decide_eq_true_eq] at w
  obtain ⟨⟨_, ⟨_, highHalfEmpty⟩, _⟩, wRest⟩ := w
  exact ⟨highHalfEmpty, wRest⟩

theorem memWfFrom_ext {m m' : Memory} {lo lo' : Nat} (w : memWfFrom lo m = true) (w' : memWfFrom lo' m' = true)
    (same : ∀ k, memLookup k m = memLookup k m') : m = m' := by
  induction m generalizing m' lo lo' with
  | nil =>
    cases m' with
    | nil => rfl
    | cons c' rest' => exact absurd (same c'.1).symm (memLookup_first_ne w' (Nat.lt_succ_self _) (m := []) rfl)
  | cons c rest ih =>
    cases m' with
    | nil => exact absurd (same c.1) (memLookup_first_ne w (Nat.lt_succ_self _) (m := []) rfl)
    | cons c' rest' =>
      rcases Nat.lt_trichotomy c.1 c'.1 with before | sameKey | after
      · exact absurd (same c.1) (memLookup_first_ne w before (memWfFrom_at_first w'))
      · obtain ⟨key, v⟩ := c
        obtain ⟨_, v'⟩ := c'
        obtain rfl : key = _ := sameKey
        obtain ⟨small, wRest⟩ := memWfFrom_cons w
        obtain ⟨small', wRest'⟩ := memWfFrom_cons w'
        have sameValue : v = v' := by
          have atKey : cellNibble v = cellNibble v' := by simpa [memLookup] using same key
          calc v = nibbleCell (cellNibble v) := (nibbleCell_cellNibble small).symm
            _ = nibbleCell (cellNibble v') := congrArg nibbleCell atKey
            _ = v' := nibbleCell_cellNibble small'
        have sameRest : rest = rest' := ih wRest wRest' fun k => by
          rcases Nat.lt_or_ge key k with beyond | upTo
          · simpa [memLookup, Nat.ne_of_lt beyond] using same k
          · rw [memLookup_of_lt (Nat.lt_succ_of_le upTo) wRest, memLookup_of_lt (Nat.lt_succ_of_le upTo) wRest']
        rw [sameValue, sameRest]
      · exact absurd (same c'.1).symm (memLookup_first_ne w' after (memWfFrom_at_first w))

/-! ### Reads after writes -/

/-- The values of an image leave every cell outside their range. -/
theorem memRead_loadFrom_outside {words : List Int} {i : Nat} {m : Memory} {addr : Nibble} (fits : i + words.length ≤ 16)
    (outside : addr.toNat < i ∨ i + words.length ≤ addr.toNat) : memRead (loadFrom i words m) addr = memRead m addr := by
  induction words generalizing i m with
  | nil => rfl
  | cons v rest ih =>
    rw [List.length_cons] at fits outside
    have notFirst : addr ≠ BitVec.ofNat 4 i := by
      rintro rfl
      rw [BitVec.toNat_ofNat] at outside
      omega
    rw [loadFrom, ih (by omega) (by omega), memRead_memWrite_other m _ notFirst]

/-- Each value of an image stands at its position. -/
theorem memRead_loadFrom_at {words : List Int} {i j : Nat} {m : Memory} {v : Int} (canonical : m.wf = true)
    (fits : i + words.length ≤ 16) (h : words[j]? = some v) :
    memRead (loadFrom i words m) (BitVec.ofNat 4 (i + j)) = mask4 v := by
  induction words generalizing i j m with
  | nil => cases h
  | cons x rest ih =>
    rw [List.length_cons] at fits
    rw [loadFrom]
    cases j with
    | zero =>
      cases h
      have outside : (BitVec.ofNat 4 i).toNat < i + 1 := by
        rw [BitVec.toNat_ofNat]
        omega
      rw [Nat.add_zero i, memRead_loadFrom_outside (words := rest) (by omega) (.inl outside), memRead_memWrite_same canonical]
    | succ j =>
      have position : i + (j + 1) = i + 1 + j := by omega
      rw [position]
      exact ih (i := i + 1) (memWrite_wf canonical _ _) (by omega) h

theorem ramLoadProgram_eq {words : List Int} (fits : words.length ≤ 16) (s : State) :
    ramLoadProgram words s = .next { s with ram := loadFrom 0 words s.ram } :=
  if_pos (decide_eq_true fits)

/-- A program that is loaded had at most 16 values. -/
theorem ramLoadProgram_cases {words : List Int} {s t : State} (h : ramLoadProgram words s = .next t) :
    words.length ≤ 16 ∧ t = { s with ram := loadFrom 0 words s.ram } := by
  rw [ramLoadProgram] at h
  split at h
  next fits => cases h; exact ⟨of_decide_eq_true fits, rfl⟩
  next => cases h

/-! ### Masking to 4 bits -/

theorem mask4_toNat (v : Int) : ((mask4 v).toNat : Int) = v % 16 := by
  rw [mask4, BitVec.toNat_ofInt]
  omega

theorem mask4_ne {a b : Int} (h : a % 16 ≠ b % 16) : mask4 a ≠ mask4 b := by
  intro same
  rw [← mask4_toNat, ← mask4_toNat, same] at h
  exact h rfl

/-! ### What a tick reads and writes -/

theorem tick_bus_of_ramOut {s : State} (running : s.halted = false) (h : (tickSignals s).ramOut = true) :
    (tick s).bus = memRead s.ram s.mar := by
  rw [tick_eq running]
  exact tickBus_of_ramOut h

/-- RamIn writes the bus to the cell at MAR, and nothing else writes RAM (R104). -/
theorem tick_ram_of_ramIn (s : State) : (tick s).ram =
    if s.halted = false ∧ (tickSignals s).ramIn = true then memWrite s.ram s.mar (tick s).bus else s.ram := by
  rcases Bool.eq_false_or_eq_true s.halted with halted | running
  · rw [tick_of_halted halted, if_neg (by simp [halted])]
  · simp only [tick_eq running, running, true_and]

/-- Without RamOut no phase reads a cell. -/
theorem tick_with_ram {s : State} (noRead : (tickSignals s).ramOut = false) (m : Memory) :
    tick { s with ram := m } = { tick s with ram := (tick { s with ram := m }).ram } := by
  rcases Bool.eq_false_or_eq_true s.halted with halted | running
  · rw [tick_of_halted halted, tick_of_halted (s := { s with ram := m }) halted]
  · have bus : settledBus (tickSignals { s with ram := m }) { s with ram := m } = settledBus (tickSignals s) s := by
      have noRead' : (tickSignals { s with ram := m }).ramOut = false := noRead
      simp only [settledBus, noRead, noRead']
      rfl
    rw [tick_eq running, tick_eq (s := { s with ram := m }) running, bus]
    rfl

/-- A cell keeps its value through a tick that does not store to it. -/
theorem memRead_tick {s : State} {a : Nibble} (noStore : ¬ (s.halted = false ∧ (tickSignals s).ramIn = true ∧ s.mar = a)) :
    memRead (tick s).ram a = memRead s.ram a := by
  rw [tick_ram_of_ramIn]
  split
  next stores => exact memRead_memWrite_other _ _ fun here => noStore ⟨stores.1, stores.2, here.symm⟩
  next => rfl

theorem memRead_tickN {n : Nat} {s : State} {a : Nibble}
    (noStore : ∀ k < n, ¬ ((tickN k s).halted = false ∧ (tickSignals (tickN k s)).ramIn = true ∧ (tickN k s).mar = a)) :
    memRead (tickN n s).ram a = memRead s.ram a := by
  induction n with
  | zero => rfl
  | succ n ih =>
    rw [tickN_succ_last, memRead_tick (noStore n (Nat.lt_succ_self n)), ih fun k h => noStore k (by omega)]

/-! ### What a host write leaves in the cell -/

theorem memRead_of_hostWrites {e : Event} {s u : State} {a v : Nibble} (canonical : s.ram.wf = true)
    (h : applyEvent e s = .next u) (writes : hostWrites e a v) : memRead u.ram a = v := by
  cases e with
  | ramWrite addr val =>
    cases h
    obtain ⟨rfl, rfl⟩ := writes
    exact memRead_memWrite_same canonical _ _
  | ramLoadProgram words =>
    obtain ⟨x, at_a, rfl⟩ := writes
    obtain ⟨fits, rfl⟩ := ramLoadProgram_cases h
    have read := memRead_loadFrom_at canonical (i := 0) (by omega) at_a
    rwa [Nat.zero_add, BitVec.ofNat_toNat, BitVec.setWidth_eq] at read
  | tick => exact writes.elim
  | reset => exact writes.elim
  | ramRead addr => exact writes.elim

/-- A host write changes RAM and nothing else. -/
theorem eq_with_ram_of_hostWrites {e : Event} {s u : State} {a v : Nibble} (h : applyEvent e s = .next u)
    (writes : hostWrites e a v) : u = { s with ram := u.ram } := by
  rcases applyEvent_cases h with ⟨rfl, -⟩ | ⟨rfl, -⟩ | ⟨-, -, m, rfl, -⟩
  · exact writes.elim
  · exact writes.elim
  · rfl

/-! ### The obligations -/

/-- Settles O36 from the laws of the two primitives, the positions of an image, and the phases that read and write RAM. -/
theorem memoryReturnsTheLastWrite : Obligations.MemoryReturnsTheLastWrite := by
  refine ⟨fun _ => rfl, fun m addr v canonical => ?_, fun s addr val canonical => ?_, fun s t words canonical h i v at_i => ?_,
    fun s => tick_bus_of_ramOut, fun s m noRead => tick_with_ram noRead m, tick_ram_of_ramIn⟩
  · exact ⟨memWrite_wf canonical addr v, memRead_memWrite_same canonical addr v, fun _ => memRead_memWrite_other m v⟩
  · exact memRead_memWrite_same canonical _ _
  · obtain ⟨fits, rfl⟩ := ramLoadProgram_cases h
    have read := memRead_loadFrom_at canonical (i := 0) (by omega) at_i
    rwa [Nat.zero_add] at read

/-- Settles O37: keys of 16 and above are listed in no canonical memory, so the sixteen cells are all keys. -/
theorem equalMemoriesAreEqualData : Obligations.EqualMemoriesAreEqualData := by
  intro m m' w w' same
  refine memWfFrom_ext w w' fun k => ?_
  by_cases inRange : k < 16
  · have atKey := same (BitVec.ofNat 4 k)
    rwa [memRead, memRead, BitVec.toNat_ofNat, Nat.mod_eq_of_lt inRange] at atKey
  · have beyond : Config.ramWords ≤ k := Nat.le_of_not_lt inRange
    rw [memLookup_of_ramWords_le beyond w, memLookup_of_ramWords_le beyond w']

/-- Settles O38: positions inside the image, cells outside it, and the guard. -/
theorem loadProgramWritesFromZero : Obligations.LoadProgramWritesFromZero := by
  refine ⟨fun words s fits canonical => ?_, fun words s tooLong => if_neg ?_⟩
  · refine ⟨_, ramLoadProgram_eq fits s, rfl, loadFrom_wf words 0 canonical, fun i v at_i => ?_, fun addr beyond => ?_⟩
    · have read := memRead_loadFrom_at canonical (i := 0) (by omega) at_i
      rwa [Nat.zero_add] at read
    · exact memRead_loadFrom_outside (by omega) (.inr (by omega))
  · exact fun fits => Nat.not_le.2 tooLong (of_decide_eq_true fits)

/-- Settles O39: one write at the masked address. -/
theorem ramWriteChangesOneCell : Obligations.RamWriteChangesOneCell := by
  intro addr val s canonical
  refine ⟨rfl, _, rfl, rfl, ?_, fun other apart => memRead_memWrite_other _ _ (mask4_ne apart)⟩
  rw [ramRead, ramWrite_ram, memRead_memWrite_same canonical]
  exact mask4_toNat val

/-- Settles O40: the cell holds the value after the write and through every tick that does not store to it; and IR is not
written from step 3 on, nor by the host. -/
theorem hostWritesAreSeenByLaterReads : Obligations.HostWritesAreSeenByLaterReads := by
  refine ⟨fun n e s u a v canonical h writes noStore => ?_, fun n e s u a v h writes fetched withinCycle => ?_⟩
  · have cell : memRead (tickN n u).ram a = v :=
      (memRead_tickN noStore).trans (memRead_of_hostWrites canonical h writes)
    refine ⟨cell, fun running reads atCell => ?_⟩
    rw [tickN_succ_last, tick_bus_of_ramOut running reads, atCell, cell]
  · have onlyRam := eq_with_ram_of_hostWrites h writes
    have stepCtr : u.stepCtr = s.stepCtr := by rw [onlyRam]
    have ir : u.ir = s.ir := by rw [onlyRam]
    rw [tickN_ir (stepCtr ▸ fetched) (stepCtr ▸ withinCycle), ir]

end Sys2Proof.Machine

/-!
PROOFS. What no tick and no program can see (spec/10_state.md R27, R28; spec/70_reset_and_hazards.md R208, R209).
-/

namespace Sys2Proof.Machine

/-! ### The hidden elements: BUS, ALU.result, SIGNALS -/

/-- `s` with other values of the elements that no accessor but SIGNALS' shows. -/
def withHidden (bus aluResult : Nibble) (g : SignalSet) (s : State) : State :=
  { s with bus := bus, aluResult := aluResult, signals := g }

theorem eq_withHidden_of_tickView_eq {s s' : State} (h : tickView s = tickView s') :
    s' = withHidden s'.bus s'.aluResult s'.signals s := by
  cases s
  cases s'
  simp_all [tickView, withHidden]

theorem hostView_congr {s s' : State} (views : tickView s = tickView s') (signals : s.signals = s'.signals) :
    hostView s = hostView s' := by
  cases s
  cases s'
  simp_all [tickView, hostView]

/-- Only a set without a producer leaves the value that the bus holds. -/
theorem settledBus_withHidden {g : SignalSet} (drives : producerCount g ≠ 0) (v r : Nibble) (g' : SignalSet) (s : State) :
    settledBus g (withHidden v r g' s) = settledBus g s := by
  simp only [producerCount, producerSignals, List.countP_cons, List.countP_nil, asserts] at drives
  simp only [settledBus, withHidden]
  grind

/-- A set of the decoder without a producer has no consumer (R18). -/
theorem tickSignals_no_consumer {s : State} (noProducer : producerCount (tickSignals s) = 0) :
    (tickSignals s).loadMAR = false ∧ (tickSignals s).irIn = false ∧ (tickSignals s).aIn = false ∧
      (tickSignals s).bIn = false ∧ (tickSignals s).outIn = false ∧ (tickSignals s).ramIn = false ∧
      (tickSignals s).jump = false :=
  controlDecode_of_decoderImage (ψ := fun g => producerCount g = 0 → g.loadMAR = false ∧ g.irIn = false ∧ g.aIn = false ∧
    g.bIn = false ∧ g.outIn = false ∧ g.ramIn = false ∧ g.jump = false) (fun _ => id) (by decide) _ _ _ _ noProducer

/-- A tick from a state with other hidden values ends in the same state but for them, and records the same signals. -/
theorem tick_withHidden {s : State} (running : s.halted = false) (v r : Nibble) (g : SignalSet) :
    tickView (tick (withHidden v r g s)) = tickView (tick s) ∧ (tick (withHidden v r g s)).signals = (tick s).signals := by
  have sameSet : tickSignals (withHidden v r g s) = tickSignals s := rfl
  rw [tick_eq running, tick_eq (s := withHidden v r g s) running, sameSet]
  refine ⟨?_, rfl⟩
  by_cases drives : producerCount (tickSignals s) = 0
  · obtain ⟨noMar, noIr, noA, noB, noOut, noRam, noJump⟩ := tickSignals_no_consumer drives
    simp only [noMar, noIr, noA, noB, noOut, noRam, noJump]
    rfl
  · rw [settledBus_withHidden drives]
    rfl

theorem tickView_tick {s s' : State} (h : tickView s = tickView s') : tickView (tick s) = tickView (tick s') := by
  rcases Bool.eq_false_or_eq_true s.halted with halted | running
  · have halted' : s'.halted = true := (congrArg TickView.halted h).symm.trans halted
    rwa [tick_of_halted halted, tick_of_halted halted']
  · rw [eq_withHidden_of_tickView_eq h]
    exact (tick_withHidden running _ _ _).1.symm

/-- SIGNALS is the one hidden element with an accessor (R27); each running tick writes it afresh. -/
theorem signals_tick {s s' : State} (h : tickView s = tickView s') (same : s.signals = s'.signals) :
    (tick s).signals = (tick s').signals := by
  rcases Bool.eq_false_or_eq_true s.halted with halted | running
  · have halted' : s'.halted = true := (congrArg TickView.halted h).symm.trans halted
    rwa [tick_of_halted halted, tick_of_halted halted']
  · rw [eq_withHidden_of_tickView_eq h]
    exact (tick_withHidden running _ _ _).2.symm

/-! ### The scratch elements: the hidden ones, MAR, IR and B -/

/-- `s` with other values of all scratch elements (R208, R209). -/
def withScratch (mar ir b bus aluResult : Nibble) (g : SignalSet) (s : State) : State :=
  { withHidden bus aluResult g s with mar := mar, ir := ir, b := b }

theorem eq_withScratch_of_programView_eq {s s' : State} (h : programView s = programView s') :
    s' = withScratch s'.mar s'.ir s'.b s'.bus s'.aluResult s'.signals s := by
  cases s
  cases s'
  simp_all [programView, withScratch, withHidden]

/-- The next states of two runs that agree in what a program sees, each again at STEP 0 or halted. -/
def StepsAgree (r r' : Host.Outcome State Fault Refusal) : Prop :=
  ∃ t t', r = .next t ∧ r' = .next t' ∧ programView t = programView t' ∧ (t.stepCtr = 0#3 ∨ t.halted = true)

/-- Every instruction writes the scratch elements before it reads them. -/
theorem exec_withScratch (i : Instr) (s : State) (mar ir b bus r : Nibble) (g : SignalSet) :
    StepsAgree (exec i s) (exec i (withScratch mar ir b bus r g s)) := by
  cases i with
  | hlt => exact ⟨_, _, rfl, rfl, rfl, .inr rfl⟩
  | add q => exact ⟨_, _, addAddsTheCell s q, addAddsTheCell _ q, rfl, .inl rfl⟩
  | sub q => exact ⟨_, _, subSubtractsTheCell s q, subSubtractsTheCell _ q, rfl, .inl rfl⟩
  | jc q | jz q =>
    simp only [exec, execJc, execJz, operandToPcIf_eq]
    exact ⟨_, _, rfl, rfl, rfl, .inl rfl⟩
  | _ => exact ⟨_, _, rfl, rfl, rfl, .inl rfl⟩

theorem step_programView {s s' : State} (start : s.stepCtr = 0#3 ∨ s.halted = true) (views : programView s = programView s') :
    StepsAgree (step s) (step s') := by
  have halted' : s'.halted = s.halted := congrArg ProgramView.halted views.symm
  have stepCtr' : s'.stepCtr = s.stepCtr := congrArg ProgramView.stepCtr views.symm
  rcases Bool.eq_false_or_eq_true s.halted with halted | running
  · exact ⟨s, s', step_of_halted halted, step_of_halted (halted'.trans halted), views, .inr halted⟩
  · have step0 : s.stepCtr = 0#3 := start.resolve_right (by simp [running])
    have fetched : fetchInstr s' = fetchInstr s := by
      rw [eq_withScratch_of_programView_eq views]
      rfl
    rw [step_at_boundary running step0, step_at_boundary (halted'.trans running) (stepCtr'.trans step0), fetched,
      eq_withScratch_of_programView_eq views]
    exact exec_withScratch ..

/-! ### The obligations -/

/-- Settles O29, by induction on the ticks. -/
theorem hiddenStateIsNeverObserved : Obligations.HiddenStateIsNeverObserved := by
  intro n
  induction n with
  | zero => exact fun s s' views => ⟨views, hostView_congr views⟩
  | succ n ih =>
    intro s s' views
    obtain ⟨viewsAfter, hostAfter⟩ := ih _ _ (tickView_tick views)
    exact ⟨viewsAfter, fun signals => hostAfter (signals_tick views signals)⟩

/-- Settles O30, by induction on the steps: each ends where the next may begin. -/
theorem scratchStateNeverReachesTheProgram : Obligations.ScratchStateNeverReachesTheProgram := by
  intro n
  induction n with
  | zero => exact fun s s' _ views => ⟨s, s', rfl, rfl, views⟩
  | succ n ih =>
    intro s s' start views
    obtain ⟨t, t', first, first', viewsAfter, startAfter⟩ := step_programView start views
    rw [stepN, stepN, first, first']
    exact ih t t' startAfter viewsAfter

end Sys2Proof.Machine

/-!
PROOFS. Runs over several steps: self-modifying code (spec/20_memory.md R55) and the idle run from power-on
(spec/70_reset_and_hazards.md R203).
-/

namespace Sys2Proof.Machine

/-! ### The fetch after a store -/

theorem memRead_memWrite {m : Memory} (canonical : m.wf = true) (addr v other : Nibble) :
    memRead (memWrite m addr v) other = if addr = other then v else memRead m other := by
  split
  next here => rw [← here, memRead_memWrite_same canonical]
  next elsewhere => exact memRead_memWrite_other m v (Ne.symm elsewhere)

/-- Settles O56: the step is the STA's, and the next fetch reads the memory that it left. -/
theorem storesAreSeenByTheNextFetch : Obligations.StoresAreSeenByTheNextFetch := by
  intro s t canonical boundary isSta h q
  have fetched : fetchInstr s = .sta q := by
    rw [fetchInstr, opcodeAt, isSta]
    rfl
  rw [step_at_boundary boundary.2 boundary.1, fetched, exec_sta] at h
  cases h
  have operandAddress : regIncrement (s.pc + 2#4) = s.pc + 3#4 := BitVec.add_assoc s.pc 2#4 1#4
  refine ⟨rfl, memRead_memWrite_same canonical q s.a, ?_, fun addr other => memRead_memWrite_other s.ram s.a other⟩
  refine (step_at_boundary ?running ?step0).trans ?_
  case running => exact boundary.2
  case step0 => rfl
  rw [fetchInstr, opcodeAt, operandAt, operandAddress, memRead_memWrite canonical, memRead_memWrite canonical]

/-! ### Power-on -/

/-- A state of the idle run: nothing but PC and MAR ever moves. -/
def idleAt (pc mar : Nibble) : State := { State.reset with pc := pc, mar := mar }

theorem step_idleAt (pc mar : Nibble) : step (idleAt pc mar) = .next (idleAt (pc + 1#4) pc) := rfl

theorem stepN_idleAt (n : Nat) (pc mar : Nibble) :
    stepN (n + 1) (idleAt pc mar) = .next (idleAt (pc + BitVec.ofNat 4 (n + 1)) (pc + BitVec.ofNat 4 n)) := by
  induction n generalizing pc mar with
  | zero => rw [stepN, step_idleAt]; simp [stepN]
  | succ n ih =>
    have next (k : Nat) : pc + 1#4 + BitVec.ofNat 4 k = pc + BitVec.ofNat 4 (k + 1) := by
      rw [BitVec.add_assoc, BitVec.add_comm 1#4, ← BitVec.ofNat_add]
    rw [stepN, step_idleAt]
    exact (ih _ _).trans (by rw [next, next])

/-- Settles O41: the idle run from PC 0. -/
theorem powerOnIdlesThroughMemory : Obligations.PowerOnIdlesThroughMemory := by
  intro n
  cases n with
  | zero => rfl
  | succ n =>
    have run := stepN_idleAt n 0#4 0#4
    rwa [BitVec.zero_add, BitVec.zero_add] at run

end Sys2Proof.Machine

/-!
PROOFS. The assembler's image (spec/30_encoding.md R71, R77, R78): pass 1 counts the nibbles that pass 2 emits.
-/

namespace Sys2Proof.Machine

/-! ### The width of a program -/

/-- The nibbles of a line by the width rule (R77). -/
def lineWidth (l : AsmLine) : Nat := l.stmt.elim 0 fun st => stmtWidth st.mnemonic

/-- The nibbles of a program. -/
def programWidth (lines : List AsmLine) : Nat := (lines.map lineWidth).sum

/-! ### What an accepting computation did -/

theorem exists_of_map_eq_ok {ε α β : Type} {f : α → β} {x : Except ε α} {y : β} (h : x.map f = .ok y) :
    ∃ a, x = .ok a ∧ f a = y := by
  cases x with
  | error e => cases h
  | ok a => cases h; exact ⟨a, rfl, rfl⟩

theorem eq_ok_of_ite_error {ε α : Type} {p : Prop} [Decidable p] {e : ε} {x : Except ε α} {y : α}
    (h : (if p then .error e else x) = .ok y) : ¬ p ∧ x = .ok y := by
  split at h
  next => cases h
  next notP => exact ⟨notP, h⟩

/-! ### Pass 1 -/

/-- What pass 1 does with a line it accepts: it goes on behind the line's nibbles, which fit. -/
theorem pass1_cons {l : AsmLine} {rest : List AsmLine} {addr : Nat} {labels out : Labels}
    (h : pass1 addr labels (l :: rest) = .ok out) : ∃ labels', pass1 (addr + lineWidth l) labels' rest = .ok out ∧
      (l.stmt = none ∨ addr + lineWidth l ≤ Config.ramWords) := by
  rw [pass1] at h
  obtain ⟨-, h⟩ := eq_ok_of_ite_error h
  obtain ⟨number, label, stmt⟩ := l
  cases stmt with
  | none => exact ⟨_, h, .inl rfl⟩
  | some st =>
    simp only at h
    split at h
    next => cases h
    next =>
      obtain ⟨notTooLong, h⟩ := eq_ok_of_ite_error h
      exact ⟨_, h, .inr (Nat.le_of_not_lt notTooLong)⟩

/-- Pass 1 accepts no program that is longer than the memory (R79). -/
theorem pass1_fits {lines : List AsmLine} {addr : Nat} {labels out : Labels} (fits : addr ≤ Config.ramWords)
    (h : pass1 addr labels lines = .ok out) : addr + programWidth lines ≤ Config.ramWords := by
  induction lines generalizing addr labels with
  | nil => exact fits
  | cons l rest ih =>
    obtain ⟨labels', goesOn, lineFits⟩ := pass1_cons h
    have fitsAfter : addr + lineWidth l ≤ Config.ramWords := by
      rcases lineFits with noStmt | lineFits
      · simpa [lineWidth, noStmt] using fits
      · exact lineFits
    rw [programWidth, List.map_cons, List.sum_cons, ← Nat.add_assoc]
    exact ih fitsAfter goesOn

/-! ### Pass 2 -/

theorem length_encode_withOperand {m : AsmMnemonic} {f : Nibble → Instr} (h : withOperand m = some f) (q : Nibble) :
    (encode (f q)).length = stmtWidth m := by
  cases m <;> cases h <;> rfl

theorem length_encode_withoutOperand {m : AsmMnemonic} {i : Instr} (h : withoutOperand m = some i) :
    (encode i).length = stmtWidth m := by
  cases m <;> cases h <;> rfl

/-- A statement emits as many nibbles as its width (R74 to R77). -/
theorem emitStmt_length {labels : Labels} {line : Nat} {st : AsmStmt} {ns : List Nibble}
    (h : emitStmt labels line st = .ok ns) : ns.length = stmtWidth st.mnemonic := by
  rw [emitStmt] at h
  split at h
  next f formatM =>
    obtain ⟨q, -, rfl⟩ := exists_of_map_eq_ok h
    exact length_encode_withOperand formatM q
  next i _ formatN =>
    split at h
    next => cases h; exact length_encode_withoutOperand formatN
    next => cases h
  next isData =>
    obtain ⟨v, -, rfl⟩ := exists_of_map_eq_ok h
    rw [isData]
    rfl
  next => cases h

theorem pass2_length {labels : Labels} {lines : List AsmLine} {ns : List Nibble} (h : pass2 labels lines = .ok ns) :
    ns.length = programWidth lines := by
  induction lines generalizing ns with
  | nil => cases h; rfl
  | cons l rest ih =>
    rw [programWidth, List.map_cons, List.sum_cons]
    rw [pass2] at h
    split at h
    next noStmt =>
      rw [ih h]
      simp [programWidth, lineWidth, noStmt]
    next st isStmt =>
      split at h
      next => cases h
      next first emitted =>
        obtain ⟨later, emittedLater, rfl⟩ := exists_of_map_eq_ok h
        rw [List.length_append, emitStmt_length emitted, ih emittedLater]
        simp [programWidth, lineWidth, isStmt]

/-! ### The obligation -/

/-- Settles O57: pass 2 emits the width that pass 1 found to fit, and the rest is filled up. -/
theorem assembledImagesHaveSixteenNibbles : Obligations.AssembledImagesHaveSixteenNibbles := by
  intro lines out h
  have sixteen : out.image.length = 16 := by
    rw [assemble] at h
    split at h
    next => cases h
    next labels firstPass =>
      obtain ⟨ns, secondPass, rfl⟩ := exists_of_map_eq_ok h
      have fits : 0 + programWidth lines ≤ 16 := pass1_fits (Nat.zero_le _) firstPass
      rw [List.length_append, List.length_replicate, pass2_length secondPass, Config.ramWords]
      omega
  exact ⟨sixteen, fun s => ⟨_, ramLoadProgram_eq (by rw [List.length_map, sixteen]) s⟩⟩

end Sys2Proof.Machine
